-- ==== Sys2Proof/Word.lean ====
section
/-! DEFINITION. The word types of the ETAG_V10 decode core (rule R7, rule R20, rule R81): everything is an unsigned
bit vector of a stated width, bit 0 the least significant. -/

namespace Sys2Proof

/-- One byte of the frame buffer (rule R36). -/
abbrev Byte := BitVec 8

/-- A 32-bit quantity: a microsecond timestamp (`TS_W`), a millisecond count (`MS_W`) or the pulse counter (rule R6). -/
abbrev U32 := BitVec 32

/-- The packed 72-bit event word `EV[71:0]` of rule R81. -/
abbrev EventWord := BitVec 72

end Sys2Proof
end

