-- ==== Sys2Proof/Config.lean ====
section
/-! DEFINITION. The parameters of the block (rule R6, rule R281): eight thresholds and the gate margin.
They are parameters and not state; every operation that reads one takes the whole record as an argument. -/

namespace Sys2Proof.Config

/-- The nine tunable parameters of rule R6, under the names the spec gives them. -/
structure Params where
  /-- `EM_SHORT_LO`: an EM4100 SHORT pulse is longer than this. -/
  emShortLo : U32
  /-- `EM_SHORT_HI`: an EM4100 SHORT pulse is shorter than this. -/
  emShortHi : U32
  /-- `EM_LONG_LO`: an EM4100 LONG pulse is longer than this. -/
  emLongLo : U32
  /-- `EM_LONG_HI`: an EM4100 LONG pulse is shorter than this. -/
  emLongHi : U32
  /-- `FDX_SHORT_LO`: an FDX-B SHORT pulse is longer than this. -/
  fdxShortLo : U32
  /-- `FDX_SHORT_HI`: an FDX-B SHORT pulse is shorter than this. -/
  fdxShortHi : U32
  /-- `FDX_LONG_LO`: an FDX-B LONG pulse is longer than this. -/
  fdxLongLo : U32
  /-- `FDX_LONG_HI`: an FDX-B LONG pulse is shorter than this. -/
  fdxLongHi : U32
  /-- `GATE_MARGIN`: the presence gate's margin and the least `checkDelay`, in milliseconds. -/
  gateMargin : U32
  deriving DecidableEq, Repr

/-- The constraints a parameter set must meet (rule R6); "all below 2^32" is the width of the fields. -/
abbrev Params.Valid (P : Params) : Prop :=
  P.emShortLo < P.emShortHi ∧ P.emShortHi ≤ P.emLongLo ∧ P.emLongLo < P.emLongHi ∧
  P.fdxShortLo < P.fdxShortHi ∧ P.fdxShortHi ≤ P.fdxLongLo ∧ P.fdxLongLo < P.fdxLongHi ∧
  1#32 ≤ P.gateMargin

/-- The document's literals, the defaults of rule R6. -/
def defaults : Params where
  emShortLo := 170
  emShortHi := 395
  emLongLo := 395
  emLongHi := 600
  fdxShortLo := 85
  fdxShortHi := 170
  fdxLongLo := 200
  fdxLongHi := 275
  gateMargin := 25

end Sys2Proof.Config
end

