-- ==== Sys2Proof/Syntax.lean ====
section
/-! DEFINITION. The operations of the block: one constructor per row of spec/opcode_table.json.
The first eight are the event kinds of rule R80 (with the reserved kind 6); the rest are the named internal
operations those events run, the function CRC16, and the frame views of 45_frame_views.md (rule R89). -/

namespace Sys2Proof

/-- A demodulator output line (rule R87): 0 is A (primary), 1 is B (secondary). -/
inductive Line where
  | a
  | b
  deriving DecidableEq, Repr

/-- The two tag protocols (rule R24, rule R87): 0 is EM4100, 1 is FDX-B. -/
inductive Protocol where
  | em4100
  | fdxb
  deriving DecidableEq, Repr

/-- The class of a pulse (rule R87): 0 SHORT, 1 LONG, 2 INVALID; code 3 is never produced (rule R90 (e)). -/
inductive PulseClass where
  | short
  | long
  | invalid
  deriving DecidableEq, Repr

/-- The result of a read (rule R40, rule R87): 0 NO_TAG, 1 TAG_DECODED. -/
inductive ReadOutcome where
  | noTag
  | tagDecoded
  deriving DecidableEq, Repr

/-- Every row of the opcode table. A one-bit level or decoded bit is a `Bool`, `true` for 1 (rule R87). -/
inductive Instr where
  /-- NOP (rule R96). -/
  | nop
  /-- EDGE: a level change on `line` at time `now`, `level` after the change (rule R82, rule R100). -/
  | edge (line : Line) (level : Bool) (now : U32)
  /-- TICK: one millisecond (rule R83, rule R193 to rule R195). -/
  | tick
  /-- READ: start a read (rule R84, rule R190); `circuit` is the raw 2-bit field. -/
  | read (protocol : Protocol) (circuit : BitVec 2) (checkDelay readTime : U32)
  /-- SHUT: the document's `shutdown()` (rule R85, rule R183). -/
  | shut
  /-- RDBUF: read one buffer byte (rule R86, rule R67). -/
  | rdbuf (idx : BitVec 4)
  /-- The reserved kind 6 with whatever its other 69 bits hold (rule R90 (a)). -/
  | reserved6 (payload : BitVec 69)
  /-- RESET (rule R96, rule R270). -/
  | reset
  /-- EDGE.IGNORE: the edge is not accepted (rule R100). -/
  | edgeIgnore
  /-- CLASSIFY (rule R101). -/
  | classify (now : U32)
  /-- CLASS_EM: the EM4100 thresholds (rule R102). -/
  | classEm (dt : U32)
  /-- CLASS_FDX: the FDX-B thresholds (rule R103). -/
  | classFdx (dt : U32)
  /-- FREEZE: an accepted edge after INTEGRITY_PASSED (rule R104). -/
  | freeze
  /-- DISPATCH to the decoder of the selected protocol (rule R105). -/
  | dispatch (cls : PulseClass) (level : Bool)
  /-- EM.INVALID (rule R121). -/
  | emInvalid
  /-- EM.LONG (rule R122). -/
  | emLong (level : Bool)
  /-- EM.SHORT (rule R123). -/
  | emShort (level : Bool)
  /-- EM_BIT in SEEK_HEADER (rule R124). -/
  | emBitSeek (b : Bool)
  /-- EM_BIT in ASSEMBLE (rule R125). -/
  | emBitStore (b : Bool)
  /-- EM_ROWEND (rule R126). -/
  | emRowend (b : Bool)
  /-- EM_FRAMEEND (rule R127). -/
  | emFrameend
  /-- RESYNC_EM (rule R128). -/
  | resyncEm
  /-- FDX.INVALID (rule R151). -/
  | fdxInvalid
  /-- FDX.LONG (rule R152). -/
  | fdxLong
  /-- FDX.SHORT (rule R153). -/
  | fdxShort
  /-- FDX_BIT (rule R154). -/
  | fdxBit (b : Bool)
  /-- FDX_SEEK (rule R155). -/
  | fdxSeek (hdr : Bool)
  /-- FDX_DATA (rule R156). -/
  | fdxData (b : Bool)
  /-- FDX_MARKER (rule R157). -/
  | fdxMarker (b : Bool)
  /-- FDX_CRCCHECK (rule R158). -/
  | fdxCrccheck
  /-- CRC16 of a list of bytes (rule R159). -/
  | crc16 (bytes : List Byte)
  /-- FDX_FRAMEEND (rule R160). -/
  | fdxFrameend
  /-- RESYNC_FDX (rule R161). -/
  | resyncFdx
  /-- ANT_ENABLE (rule R180). -/
  | antEnable (c : BitVec 2)
  /-- ANT_DISABLE_ALL (rule R181). -/
  | antDisableAll
  /-- READ.REJECT: a READ that is turned away (rule R190). -/
  | readReject
  /-- READ_ACCEPT (rule R191). -/
  | readAccept (p : Protocol) (c : BitVec 2) (cd rt : U32)
  /-- ARMCLEAR (rule R192). -/
  | armclear (p : Protocol)
  /-- TICK.IDLE (rule R193). -/
  | tickIdle
  /-- TICK.CHECK, with the presence gate (rule R194). -/
  | tickCheck
  /-- TICK.WAIT, with the poll (rule R195). -/
  | tickWait
  /-- FINISH (rule R196). -/
  | finish (o : ReadOutcome)
  /-- SHUT.REJECT: a SHUT while a read is in progress (rule R183). -/
  | shutReject
  /-- EM_PAYLOAD (rule R220). -/
  | emPayload
  /-- EM_USER (rule R221). -/
  | emUser
  /-- EM_ID (rule R221). -/
  | emId
  /-- EM_HEX (rule R222). -/
  | emHex
  /-- FDX_ANIMAL (rule R223). -/
  | fdxAnimal
  /-- FDX_COUNTRY (rule R224). -/
  | fdxCountry
  /-- FDX_EXT (rule R225). -/
  | fdxExt
  /-- FDX_EXT24 (rule R225). -/
  | fdxExt24
  /-- FDX_CRCFIELD (rule R225). -/
  | fdxCrcfield
  /-- FDX_ID64 (rule R225). -/
  | fdxId64
  /-- FDX_IDLOW (rule R225). -/
  | fdxIdlow
  /-- FDX_STR (rule R226). -/
  | fdxStr
  deriving DecidableEq, Repr

end Sys2Proof
end

