-- ==== Sys2Proof/Decode.lean ====
section
/-! DEFINITION. The packed event word of rule R81: its decoder, total on all 2^72 words, and its encoder, both written
from rule R81 to rule R86 and rule R96. The internal operations and the views have no encoding (the opcode table's empty
`encoding`), so the encoder answers `none` for them and the decoder never yields one. -/

namespace Sys2Proof

/-- Why a word is no event: its kind is one of the seven legal ones and a reserved bit is set (rule R81, rule R90 (a)). -/
inductive DecodeError where
  | reservedBit (kind : BitVec 3)
  deriving DecidableEq, Repr

/-- One bit as a 1-bit vector. -/
def bitVecOfBool (b : Bool) : BitVec 1 := BitVec.ofBool b

/-- Line codes of rule R87. -/
def lineOfBit (b : Bool) : Line := if b then .b else .a

/-- Line codes of rule R87, the other way. -/
def Line.bit : Line → Bool
  | .a => false
  | .b => true

/-- Protocol codes of rule R87. -/
def protocolOfBit (b : Bool) : Protocol := if b then .fdxb else .em4100

/-- Protocol codes of rule R87, the other way. -/
def Protocol.bit : Protocol → Bool
  | .em4100 => false
  | .fdxb => true

/-- `EV[71:69]`, the kind code (rule R81). -/
def eventKind (w : EventWord) : BitVec 3 := w.extractLsb' 69 3

/-- A word whose reserved bits are all 0 is the event `i`; any other is refused by name (rule R90 (a)). -/
def unlessReserved (w : EventWord) (reservedZero : Bool) (i : Instr) : Except DecodeError Instr :=
  if reservedZero then .ok i else .error (.reservedBit (eventKind w))

/-- Decode an event word: kind by rule R80, fields by rule R82 to rule R86, reserved bits by rule R81. Every bit of a
kind 6 word other than the kind is kept as the payload of `reserved6`. -/
def decode (w : EventWord) : Except DecodeError Instr :=
  if eventKind w = 0#3 then unlessReserved w (w.extractLsb' 0 69 == 0#69) .nop
  else if eventKind w = 1#3 then
    unlessReserved w (w.extractLsb' 32 35 == 0#35)
      (.edge (lineOfBit (w.getLsbD 68)) (w.getLsbD 67) (w.extractLsb' 0 32))
  else if eventKind w = 2#3 then unlessReserved w (w.extractLsb' 0 69 == 0#69) .tick
  else if eventKind w = 3#3 then
    unlessReserved w (w.extractLsb' 64 2 == 0#2)
      (.read (protocolOfBit (w.getLsbD 68)) (w.extractLsb' 66 2) (w.extractLsb' 0 32) (w.extractLsb' 32 32))
  else if eventKind w = 4#3 then unlessReserved w (w.extractLsb' 0 69 == 0#69) .shut
  else if eventKind w = 5#3 then unlessReserved w (w.extractLsb' 4 65 == 0#65) (.rdbuf (w.extractLsb' 0 4))
  else if eventKind w = 6#3 then .ok (.reserved6 (w.extractLsb' 0 69))
  else unlessReserved w (w.extractLsb' 0 69 == 0#69) .reset

/-- The field `v` with its bit 0 at bit `k` of an otherwise zero event word. -/
def field {w : Nat} (k : Nat) (v : BitVec w) : EventWord := v.setWidth 72 <<< k

/-- The event word of an event, each field at the place the table of rule R81 gives it; `none` for a row without an
encoding. -/
def encode : Instr → Option EventWord
  | .nop => some (field 69 0#3)
  | .edge line level now =>
    some (field 69 1#3 ||| field 68 (bitVecOfBool line.bit) ||| field 67 (bitVecOfBool level) ||| field 0 now)
  | .tick => some (field 69 2#3)
  | .read p c cd rt =>
    some (field 69 3#3 ||| field 68 (bitVecOfBool p.bit) ||| field 66 c ||| field 32 rt ||| field 0 cd)
  | .shut => some (field 69 4#3)
  | .rdbuf idx => some (field 69 5#3 ||| field 0 idx)
  | .reserved6 payload => some (field 69 6#3 ||| field 0 payload)
  | .reset => some (field 69 7#3)
  | .edgeIgnore | .classify _ | .classEm _ | .classFdx _ | .freeze | .dispatch _ _
  | .emInvalid | .emLong _ | .emShort _ | .emBitSeek _ | .emBitStore _ | .emRowend _ | .emFrameend | .resyncEm
  | .fdxInvalid | .fdxLong | .fdxShort | .fdxBit _ | .fdxSeek _ | .fdxData _ | .fdxMarker _ | .fdxCrccheck
  | .crc16 _ | .fdxFrameend | .resyncFdx | .antEnable _ | .antDisableAll | .readReject | .readAccept _ _ _ _
  | .armclear _ | .tickIdle | .tickCheck | .tickWait | .finish _ | .shutReject
  | .emPayload | .emUser | .emId | .emHex | .fdxAnimal | .fdxCountry | .fdxExt | .fdxExt24 | .fdxCrcfield
  | .fdxId64 | .fdxIdlow | .fdxStr => none

/-- The kind codes of rule R80; `none` for a row that is no event. -/
def eventCode : Instr → Option (BitVec 3)
  | .nop => some 0
  | .edge _ _ _ => some 1
  | .tick => some 2
  | .read _ _ _ _ => some 3
  | .shut => some 4
  | .rdbuf _ => some 5
  | .reserved6 _ => some 6
  | .reset => some 7
  | .edgeIgnore | .classify _ | .classEm _ | .classFdx _ | .freeze | .dispatch _ _
  | .emInvalid | .emLong _ | .emShort _ | .emBitSeek _ | .emBitStore _ | .emRowend _ | .emFrameend | .resyncEm
  | .fdxInvalid | .fdxLong | .fdxShort | .fdxBit _ | .fdxSeek _ | .fdxData _ | .fdxMarker _ | .fdxCrccheck
  | .crc16 _ | .fdxFrameend | .resyncFdx | .antEnable _ | .antDisableAll | .readReject | .readAccept _ _ _ _
  | .armclear _ | .tickIdle | .tickCheck | .tickWait | .finish _ | .shutReject
  | .emPayload | .emUser | .emId | .emHex | .fdxAnimal | .fdxCountry | .fdxExt | .fdxExt24 | .fdxCrcfield
  | .fdxId64 | .fdxIdlow | .fdxStr => none

/-- A row of format `event` of spec/opcode_table.json: the words `w` with `w and mask = pattern`. -/
structure EventRow where
  pattern : EventWord
  mask : EventWord
  deriving DecidableEq, Repr

/-- A word matches a row. -/
def EventRow.matches (r : EventRow) (w : EventWord) : Bool := w &&& r.mask == r.pattern

/-- The eight rows of format `event`, their `match` and `mask` copied from spec/opcode_table.json. -/
def eventRows : List EventRow :=
  [⟨0x000000000000000000, 0xFFFFFFFFFFFFFFFFFF⟩,
   ⟨0x200000000000000000, 0xE7FFFFFFFF00000000⟩,
   ⟨0x400000000000000000, 0xFFFFFFFFFFFFFFFFFF⟩,
   ⟨0x600000000000000000, 0xE30000000000000000⟩,
   ⟨0x800000000000000000, 0xFFFFFFFFFFFFFFFFFF⟩,
   ⟨0xA00000000000000000, 0xFFFFFFFFFFFFFFFFF0⟩,
   ⟨0xC00000000000000000, 0xE00000000000000000⟩,
   ⟨0xE00000000000000000, 0xFFFFFFFFFFFFFFFFFF⟩]

/-- The event word whose low `nbits` bits are those of `w` and whose other bits are 0. -/
def eventWordOfBits (nbits w : Nat) : EventWord := BitVec.ofNat 72 (w % 2 ^ nbits)

/-- What the decoder reads from a word numbered as spec/opcode_table.json numbers it (bit 0 is `EV[0]`). -/
def decodeTableWord (nbits w : Nat) : Option Instr :=
  match decode (eventWordOfBits nbits w) with
  | .ok i => some i
  | .error _ => none

end Sys2Proof
end

