-- ==== Sys2Proof/Machine/State.lean ====
section
/-! DEFINITION. The state of the block: the 23 named registers and the 13-byte frame buffer of 10_state.md, and two fields of
the model's own, the pending trace and the last response. With it the reasons a step can stop and the state after RESET
(rule R270). -/

namespace Sys2Proof.Machine

/-- The completion flag (rule R28). FRAME_COMPLETE and INTEGRITY_FAILED are transient; codes 5 to 7 are never held and are
left out of the type (rule R90 (e)). -/
inductive Flag where
  | inProgress
  | frameComplete
  | integrityPassed
  | integrityFailed
  | passedPending
  deriving DecidableEq, Repr

/-- The session state (rule R37); code 3 is never held and is left out of the type (rule R90 (e)). -/
inductive Sess where
  | idle
  | check
  | wait
  deriving DecidableEq, Repr

/-- What a step answers (rule R80): nothing, OK, REJECT or one byte; and, for an internal operation or a view run on its
own, the value it returns. -/
inductive Resp where
  /-- The table's response "none". -/
  | silent
  /-- OK, code 0 (rule R87). -/
  | ok
  /-- REJECT, code 1 (rule R87). -/
  | reject
  /-- One byte: RDBUF (rule R67), EM_USER (rule R221), FDX_EXT (rule R225). -/
  | byte (v : Byte)
  /-- A pulse class: CLASSIFY, CLASS_EM, CLASS_FDX (rule R101 to rule R103). -/
  | pulse (c : PulseClass)
  /-- 10 bits: FDX_COUNTRY (rule R224). -/
  | bits10 (v : BitVec 10)
  /-- 16 bits: CRC16 (rule R159), FDX_CRCFIELD (rule R225). -/
  | bits16 (v : BitVec 16)
  /-- 24 bits: FDX_EXT24 (rule R225). -/
  | bits24 (v : BitVec 24)
  /-- 32 bits: EM_ID (rule R221), FDX_IDLOW (rule R225). -/
  | bits32 (v : BitVec 32)
  /-- 38 bits: FDX_ANIMAL (rule R223). -/
  | bits38 (v : BitVec 38)
  /-- 64 bits: FDX_ID64 (rule R225). -/
  | bits64 (v : BitVec 64)
  /-- A list of bytes: EM_PAYLOAD (rule R220). -/
  | bytes (vs : List Byte)
  /-- Characters: EM_HEX (rule R222), FDX_STR (rule R226). -/
  | text (cs : List Char)
  deriving DecidableEq, Repr

/-- The frame buffer as a list of (index, byte) pairs: indices rising, no entry equal to `Memory.unlisted`. -/
abbrev Memory := List Host.Cell

/-- The state of the block. Register names, widths and meanings are those of 10_state.md; a 1-bit register is a `Bool`,
`true` for 1. -/
structure State where
  /-- The `now` of the last accepted EDGE (rule R21). -/
  lastEdge : BitVec 32
  /-- Accepted edges since arming, modulo 2^32 (rule R22). -/
  pulseCount : BitVec 32
  /-- The edge handler is attached (rule R23). -/
  armed : Bool
  /-- The protocol of the current or last session (rule R24). -/
  protocol : Protocol
  /-- The antenna circuit of the current or last session, 0 for none (rule R25). -/
  circuit : BitVec 2
  /-- The row or octet being filled (rule R26). -/
  byteCtr : BitVec 4
  /-- The bit index inside it (rule R27). -/
  bitCtr : BitVec 4
  /-- The completion flag (rule R28). -/
  flag : Flag
  /-- EM4100 count of consecutive 1 bits (rule R29). -/
  ones : BitVec 4
  /-- EM4100 running row parity (rule R30). -/
  rowPar : Bool
  /-- EM4100 failure bitmap (rule R31). -/
  failMap : BitVec 11
  /-- EM4100: a LONG has been seen since the last arm or resync (rule R32). -/
  longSeen : Bool
  /-- EM4100: one SHORT of a pair has been seen (rule R33). -/
  emHalf : Bool
  /-- FDX-B header window (rule R34). -/
  tenZ : BitVec 16
  /-- FDX-B half-bit toggle (rule R35). -/
  pulse2 : Bool
  /-- The 13-byte frame buffer (rule R36). -/
  buf : Memory
  /-- The session state (rule R37). -/
  sess : Sess
  /-- Milliseconds since the READ (rule R38). -/
  msCount : BitVec 32
  /-- The session's `checkDelay` (rule R39). -/
  cd : BitVec 32
  /-- The session's `readTime` (rule R39). -/
  rt : BitVec 32
  /-- The result of the last finished session (rule R40). -/
  outcome : ReadOutcome
  /-- A session has finished since the last accepted READ or RESET (rule R40). -/
  done : Bool
  /-- Level on shutdown line C, `true` = antenna off (rule R41). -/
  antC : Bool
  /-- Level on shutdown line D, `true` = antenna off (rule R41). -/
  antD : Bool
  /-- The model's own: the events still to come, oldest first (rule R5, rule R70). -/
  events : List EventWord
  /-- The model's own: the response of the last step (rule R5, rule R80). -/
  resp : Resp
  deriving DecidableEq, Repr

/-- The reasons a step can stop with a fault. None is the spec's: rule R240 to rule R242 let no failure out of the block.
Neither can happen in a state that a run from reset reaches. -/
inductive Fault where
  /-- `MemWriteBit` outside buffer index 0 to 12 or bit 0 to 7 (rule R60, rule R66): raised by EM_BIT.STORE and FDX_DATA in
  a state whose counters no run reaches. Safe. -/
  | noBufferBit (index bit : Nat)
  /-- A decoder counter holds a value for which "no rule says what happens" (93_implementation_defined.md V3): raised by
  EM_BIT with `ones` above 9 and by FDX_BIT with `bitCtr` 9 or 11 to 15. Safe. -/
  | unusedCounterValue
  deriving DecidableEq, Repr

/-- The reasons a step can be refused. -/
inductive Refusal where
  /-- An arm of `exec` without a meaning: raised by `exec` alone, and by no arm of this model. Safe. -/
  | notModelled (mnemonic : String)
  deriving DecidableEq, Repr

/-- The state after RESET (rule R270, the table of 10_state.md section 11), with no event pending and no response. -/
def State.reset : State where
  lastEdge := 0
  pulseCount := 0
  armed := false
  protocol := .em4100
  circuit := 0
  byteCtr := 0
  bitCtr := 4
  flag := .inProgress
  ones := 0
  rowPar := false
  failMap := 0
  longSeen := false
  emHalf := false
  tenZ := 0xFFFF
  pulse2 := false
  buf := []
  sess := .idle
  msCount := 0
  cd := 0
  rt := 0
  outcome := .noTag
  done := false
  antC := true
  antD := true
  events := []
  resp := .silent

end Sys2Proof.Machine
end

