-- ==== Sys2Proof/Machine/Ops.lean ====
section
/-! DEFINITION. The operations every other file is written over: the frame buffer's primitives (rule R66), single-bit
register writes, the pending trace, responses, and the block's two forms of an exception, the resync and the rejection
(rule R8, rule R241, rule R242). -/

namespace Sys2Proof.Machine

/-- What a buffer byte without an entry reads as: RESET and ARMCLEAR leave every byte 0x00 (rule R36, rule R270). -/
def Memory.unlisted : Byte := 0#8

/-- Every listed index is above `i`. -/
def Memory.above (i : Nat) : Memory → Bool
  | [] => true
  | (j, _) :: m => decide (i < j) && Memory.above i m

/-- The canonical form of the buffer: indices strictly rising and below 13, no entry equal to an unlisted byte (rule R60). -/
def Memory.wf : Memory → Bool
  | [] => true
  | (i, b) :: m => decide (i < 13) && (b != Memory.unlisted) && Memory.above i m && Memory.wf m

/-- The byte at index `k`. -/
def Memory.read : Memory → Nat → Byte
  | [], _ => Memory.unlisted
  | (i, b) :: m, k => if i = k then b else Memory.read m k

/-- Put `v` at the head of `m` under index `k`, unless it is what an unlisted byte reads as. -/
def Memory.entry (k : Nat) (v : Byte) (m : Memory) : Memory := if v = Memory.unlisted then m else (k, v) :: m

/-- Set the byte at index `k`, keeping the canonical form. -/
def Memory.write : Memory → Nat → Byte → Memory
  | [], k, v => Memory.entry k v []
  | (i, b) :: m, k, v =>
    if k < i then Memory.entry k v ((i, b) :: m)
    else if k = i then Memory.entry k v m
    else (i, b) :: Memory.write m k v

/-- One bit as a vector of width `w`. -/
def bitAs (w : Nat) (b : Bool) : BitVec w := if b then 1#w else 0#w

/-- Bit `k` of `v` set to `b`, the other bits unchanged: `(v and not (1 << k)) or (b << k)` (rule R66). -/
def withBit {w : Nat} (v : BitVec w) (k : Nat) (b : Bool) : BitVec w :=
  (v &&& ~~~(1#w <<< k)) ||| (bitAs w b <<< k)

/-- `MemReadBit(i, k)` (rule R66). -/
def memReadBit (i k : Nat) (s : State) : Bool := (s.buf.read i).getLsbD k

/-- `MemRead(i, n)`: the bytes `buf[i] .. buf[i+n-1]`, `buf[i]` first (rule R8, rule R66). -/
def memRead (i n : Nat) (s : State) : List Byte := (List.range n).map (fun j => s.buf.read (i + j))

/-- `MemWriteBit(i, k, b)` (rule R66); an index that the buffer does not have faults (rule R60). -/
def memWriteBit (i k : Nat) (b : Bool) (s : State) : Except Fault State :=
  if i ≤ 12 ∧ k ≤ 7 then .ok { s with buf := s.buf.write i (withBit (s.buf.read i) k b) }
  else .error (.noBufferBit i k)

/-- The whole buffer, `buf[0..12]` (rule R36): the `raw` of the frame views. -/
def rawFrame (s : State) : List Byte := memRead 0 13 s

/-- Record the step's response (rule R5, rule R80). -/
def respond (r : Resp) (s : State) : State := { s with resp := r }

/-- The end of an operation that may fault: its next state with the response `r`, or the fault. -/
def answer (r : Resp) : Except Fault State → Host.Outcome State Fault Refusal
  | .ok s => .next (respond r s)
  | .error f => .fault f

/-- Take the oldest pending event off the trace (rule R70 (c): strict arrival order). -/
def takeEvent (s : State) : Option (EventWord × State) :=
  match s.events with
  | [] => none
  | w :: rest => some (w, { s with events := rest })

/-- The five resync causes, RS0 to RS4 (rule R241). No register records one. -/
inductive ResyncCause where
  | invalidPulseEm
  | parityFail
  | invalidPulseFdx
  | markerViolation
  | crcFail
  deriving DecidableEq, Repr

/-- RESYNC_EM: the registers rule R128 lists, and no other. -/
def resyncEm (s : State) : State :=
  { s with
    ones := 0, byteCtr := 0, bitCtr := 4, rowPar := false, failMap := 0, longSeen := false, emHalf := false,
    flag := .inProgress }

/-- RESYNC_FDX: the registers rule R161 lists, and no other. -/
def resyncFdx (s : State) : State :=
  { s with byteCtr := 0, bitCtr := 10, tenZ := 0xFFFF, pulse2 := false, flag := .inProgress }

/-- `resync <Cause>`, this block's way to take an exception (rule R8, rule R241): the handler column of rule R241. It saves
nothing, and there is no return operation: the next edge is decoded in SEEK_HEADER (rule R247, rule R249). -/
def resync : ResyncCause → State → State
  | .invalidPulseEm, s => resyncEm s
  | .parityFail, s => resyncEm s
  | .invalidPulseFdx, s => resyncFdx s
  | .markerViolation, s => resyncFdx s
  | .crcFail, s => resyncFdx s

/-- The six rejection causes, RJ0 to RJ5 (rule R242). No register records one and no response carries one. -/
inductive RejectCause where
  | busy
  | badCircuit
  | badCheckDelay
  | badReadTime
  | busyShut
  | reserved
  deriving DecidableEq, Repr

/-- `reject`: the response REJECT and no other state change, whatever the cause (rule R8, rule R242). -/
def reject (_cause : RejectCause) (s : State) : State := respond .reject s

/-- The step of an event word that the decoder refuses: REJECT, no state change (rule R90 (a), cause RJ5). -/
def rejectWord (_why : DecodeError) (s : State) : Host.Outcome State Fault Refusal := .next (reject .reserved s)

/-- `s` with the event word of `nbits` bits `w` as the next event of its trace. -/
def pushEvent (nbits w : Nat) (s : State) : State := { s with events := eventWordOfBits nbits w :: s.events }

end Sys2Proof.Machine
end

