-- ==== Sys2Proof/WellFormed.lean ====
section
/-! DEFINITION. Which instructions are well formed. The operands of the eight events are raw fields, so every event is
well formed (an illegal READ argument is a well-formed READ that is rejected, rule R190); the checks are on the internal
operations whose operand the opcode table restricts. -/

namespace Sys2Proof

/-- A legal antenna circuit, 1 or 2 (rule R180, rule R190). -/
abbrev legalCircuit (c : BitVec 2) : Prop := c = 1#2 ∨ c = 2#2

/-- The eight rows of format `event`: the instructions that come from outside and have an encoding (rule R80). -/
def Instr.isEvent : Instr → Bool
  | .nop | .edge _ _ _ | .tick | .read _ _ _ _ | .shut | .rdbuf _ | .reserved6 _ | .reset => true
  | .edgeIgnore | .classify _ | .classEm _ | .classFdx _ | .freeze | .dispatch _ _
  | .emInvalid | .emLong _ | .emShort _ | .emBitSeek _ | .emBitStore _ | .emRowend _ | .emFrameend | .resyncEm
  | .fdxInvalid | .fdxLong | .fdxShort | .fdxBit _ | .fdxSeek _ | .fdxData _ | .fdxMarker _ | .fdxCrccheck
  | .crc16 _ | .fdxFrameend | .resyncFdx | .antEnable _ | .antDisableAll | .readReject | .readAccept _ _ _ _
  | .armclear _ | .tickIdle | .tickCheck | .tickWait | .finish _ | .shutReject
  | .emPayload | .emUser | .emId | .emHex | .fdxAnimal | .fdxCountry | .fdxExt | .fdxExt24 | .fdxCrcfield
  | .fdxId64 | .fdxIdlow | .fdxStr => false

/-- The component a row belongs to (the files 40 to 45 of the spec). -/
inductive OpFamily where
  | event
  | classifier
  | emDecoder
  | fdxDecoder
  | dispatcher
  | function
  | antenna
  | session
  | view
  deriving DecidableEq, Repr

/-- The component of each row. -/
def Instr.family : Instr → OpFamily
  | .nop | .edge _ _ _ | .tick | .read _ _ _ _ | .shut | .rdbuf _ | .reserved6 _ | .reset => .event
  | .edgeIgnore | .classify _ | .classEm _ | .classFdx _ | .freeze => .classifier
  | .dispatch _ _ => .dispatcher
  | .emInvalid | .emLong _ | .emShort _ | .emBitSeek _ | .emBitStore _ | .emRowend _ | .emFrameend | .resyncEm =>
    .emDecoder
  | .fdxInvalid | .fdxLong | .fdxShort | .fdxBit _ | .fdxSeek _ | .fdxData _ | .fdxMarker _ | .fdxCrccheck
  | .fdxFrameend | .resyncFdx => .fdxDecoder
  | .crc16 _ => .function
  | .antEnable _ | .antDisableAll | .shutReject => .antenna
  | .readReject | .readAccept _ _ _ _ | .armclear _ | .tickIdle | .tickCheck | .tickWait | .finish _ => .session
  | .emPayload | .emUser | .emId | .emHex | .fdxAnimal | .fdxCountry | .fdxExt | .fdxExt24 | .fdxCrcfield
  | .fdxId64 | .fdxIdlow | .fdxStr => .view

/-- The decoder operations that may store a bit, at `(byteCtr, bitCtr)` (rule R125, rule R156). -/
def Instr.mayStoreBit : Instr → Bool
  | .edge _ _ _ | .dispatch _ _ | .emLong _ | .emShort _ | .emBitStore _
  | .fdxLong | .fdxShort | .fdxBit _ | .fdxData _ => true
  | .nop | .tick | .read _ _ _ _ | .shut | .rdbuf _ | .reserved6 _ | .reset
  | .edgeIgnore | .classify _ | .classEm _ | .classFdx _ | .freeze
  | .emInvalid | .emBitSeek _ | .emRowend _ | .emFrameend | .resyncEm
  | .fdxInvalid | .fdxSeek _ | .fdxMarker _ | .fdxCrccheck
  | .crc16 _ | .fdxFrameend | .resyncFdx | .antEnable _ | .antDisableAll | .readReject | .readAccept _ _ _ _
  | .armclear _ | .tickIdle | .tickCheck | .tickWait | .finish _ | .shutReject
  | .emPayload | .emUser | .emId | .emHex | .fdxAnimal | .fdxCountry | .fdxExt | .fdxExt24 | .fdxCrcfield
  | .fdxId64 | .fdxIdlow | .fdxStr => false

/-- The operand restrictions of the opcode table: ANT_ENABLE and READ_ACCEPT take a circuit 1 or 2, READ_ACCEPT runs only
with durations that rule R190 lets through, and FDX_MARKER's bit is always 1 (rule R157). -/
def Instr.wf : Instr → Bool
  | .antEnable c => decide (legalCircuit c)
  | .readAccept _ c cd rt => decide (legalCircuit c ∧ Config.defaults.gateMargin ≤ cd ∧ cd ≤ rt)
  | .fdxMarker b => b
  | .nop | .edge _ _ _ | .tick | .read _ _ _ _ | .shut | .rdbuf _ | .reserved6 _ | .reset
  | .edgeIgnore | .classify _ | .classEm _ | .classFdx _ | .freeze | .dispatch _ _
  | .emInvalid | .emLong _ | .emShort _ | .emBitSeek _ | .emBitStore _ | .emRowend _ | .emFrameend | .resyncEm
  | .fdxInvalid | .fdxLong | .fdxShort | .fdxBit _ | .fdxSeek _ | .fdxData _ | .fdxCrccheck
  | .crc16 _ | .fdxFrameend | .resyncFdx | .antDisableAll | .readReject
  | .armclear _ | .tickIdle | .tickCheck | .tickWait | .finish _ | .shutReject
  | .emPayload | .emUser | .emId | .emHex | .fdxAnimal | .fdxCountry | .fdxExt | .fdxExt24 | .fdxCrcfield
  | .fdxId64 | .fdxIdlow | .fdxStr => true

end Sys2Proof
end

