-- ==== Sys2Proof/Machine/Operands.lean ====
section
/-! DEFINITION. Operands: the parameter values this model runs with, the numeric codes of the enumerated values (rule R87),
and the computed operands (rule R88, rule R182). -/

namespace Sys2Proof.Machine

/-- The parameter set `exec` runs with: the defaults of rule R6. The operations take any parameter set. -/
def params : Config.Params := Config.defaults

/-- PulseClass codes (rule R87). -/
def pulseCode : PulseClass → BitVec 2
  | .short => 0
  | .long => 1
  | .invalid => 2

/-- Flag codes (rule R28, rule R87). -/
def flagCode : Flag → BitVec 3
  | .inProgress => 0
  | .frameComplete => 1
  | .integrityPassed => 2
  | .integrityFailed => 3
  | .passedPending => 4

/-- Sess codes (rule R37, rule R87). -/
def sessCode : Sess → BitVec 2
  | .idle => 0
  | .check => 1
  | .wait => 2

/-- Outcome codes (rule R40, rule R87): the `{0,1}` that `fast_read` returns. -/
def outcomeCode : ReadOutcome → BitVec 1
  | .noTag => 0
  | .tagDecoded => 1

/-- Resp codes (rule R87) of the two command responses. -/
def respCode : Resp → Option (BitVec 1)
  | .ok => some 0
  | .reject => some 1
  | .silent | .byte _ | .pulse _ | .bits10 _ | .bits16 _ | .bits24 _ | .bits32 _ | .bits38 _ | .bits64 _
  | .bytes _ | .text _ => none

/-- `selLine`, the line the decoder observes: A for circuit 1, else B (rule R100, rule R182). -/
def selLine (s : State) : Line := if s.circuit = 1#2 then .a else .b

/-- The length of the pulse that ends at `now`, modulo 2^32 (rule R88, rule R101). -/
def pulseLength (now : U32) (s : State) : U32 := now - s.lastEdge

/-- `busy`, shorthand for `sess != IDLE` (rule R37). -/
def busy (s : State) : Bool := s.sess != .idle

/-- `(hi << 8) or lo`, the little-endian 16-bit value of two bytes (rule R63, rule R158). -/
def le16 (lo hi : Byte) : BitVec 16 := (hi.zeroExtend 16 <<< 8) ||| lo.zeroExtend 16

end Sys2Proof.Machine
end

