-- ==== Sys2Proof/Machine/Flags.lean ====
section
/-! DEFINITION. The integrity computations and the tests on them: EM4100 row and column parity (rule R125 to rule R127), the
FDX-B header window (rule R154) and CRC-16 (rule R159), and the session's gate and poll tests (rule R194, rule R195). -/

namespace Sys2Proof.Machine

/-- The XOR of a list of bits. -/
def xorAll : List Bool → Bool
  | [] => false
  | b :: bs => b ^^ xorAll bs

/-- The even parity of column `c`: the XOR of bit `c` of rows 0 to 9 (rule R127). -/
def columnParity (c : Nat) (s : State) : Bool := xorAll ((List.range 10).map (fun r => memReadBit r c s))

/-- `bad` of rule R127: some column's parity differs from its bit of row 10. -/
def columnsBad (s : State) : Bool := [4, 3, 2, 1].any (fun c => columnParity c s != memReadBit 10 c s)

/-- `failMap[byteCtr] <- 1` when the row's parity bit `b` is not the XOR of its data bits (rule R126). -/
def failMapAfterRow (b : Bool) (s : State) : BitVec 11 :=
  if s.rowPar != b then withBit s.failMap s.byteCtr.toNat true else s.failMap

/-- `failMap[10] <- bad` (rule R127). -/
def failMapAfterColumns (s : State) : BitVec 11 := withBit s.failMap 10 (columnsBad s)

/-- One of the eight iterations of CRC16 (rule R159). -/
def crcShift (crc : BitVec 16) : BitVec 16 :=
  if crc.getLsbD 0 then (crc >>> 1) ^^^ 0x8408#16 else crc >>> 1

/-- `n` iterations of CRC16. -/
def crcShifts : Nat → BitVec 16 → BitVec 16
  | 0, crc => crc
  | n + 1, crc => crcShifts n (crcShift crc)

/-- One byte of CRC16: XOR the byte into the low byte, then eight iterations (rule R159). -/
def crcByte (crc : BitVec 16) (b : Byte) : BitVec 16 := crcShifts 8 (crc ^^^ b.zeroExtend 16)

/-- CRC16 of a list of bytes: initial value 0x0000, no final XOR (rule R159). -/
def crc16 (bytes : List Byte) : BitVec 16 := bytes.foldl crcByte 0x0000#16

/-- `calc` of rule R158: CRC16 over `buf[0..7]`. -/
def crcCalculated (s : State) : BitVec 16 := crc16 (memRead 0 8 s)

/-- `recv` of rule R158: `(buf[9] << 8) or buf[8]`. -/
def crcReceived (s : State) : BitVec 16 := le16 (s.buf.read 8) (s.buf.read 9)

/-- `hdr` of rule R154: the low ten bits of `tenZ` are 0 and the new bit is 1. -/
def headerSeen (b : Bool) (s : State) : Bool := (s.tenZ.extractLsb' 0 10 == 0#10) && b

/-- The window after the bit `b` (rule R154). -/
def windowAfter (b : Bool) (s : State) : BitVec 16 := (s.tenZ <<< 1) ||| bitAs 16 b

/-- The presence gate's failure test, `pulseCount <= cd - GATE_MARGIN`, unsigned (rule R194). -/
def gateFails (P : Config.Params) (s : State) : Bool := decide (s.pulseCount ≤ s.cd - P.gateMargin)

end Sys2Proof.Machine
end

