-- ==== Sys2Proof/Machine/Classifier.lean ====
section
/-! DEFINITION. The edge classifier C1 (40_edge_classifier.md): CLASS_EM, CLASS_FDX, CLASSIFY, and the two ways an EDGE ends
without reaching a decoder. -/

namespace Sys2Proof.Machine

/-- CLASS_EM: the EM4100 thresholds, all comparisons strict, SHORT tested first (rule R102). -/
def classEm (P : Config.Params) (dt : U32) : PulseClass :=
  if P.emShortLo < dt ∧ dt < P.emShortHi then .short
  else if P.emLongLo < dt ∧ dt < P.emLongHi then .long
  else .invalid

/-- CLASS_FDX: the FDX-B thresholds, all comparisons strict, SHORT tested first (rule R103). -/
def classFdx (P : Config.Params) (dt : U32) : PulseClass :=
  if P.fdxShortLo < dt ∧ dt < P.fdxShortHi then .short
  else if P.fdxLongLo < dt ∧ dt < P.fdxLongHi then .long
  else .invalid

/-- The class CLASSIFY gives the pulse that ends at `now` (rule R101). -/
def classAt (P : Config.Params) (now : U32) (s : State) : PulseClass :=
  match s.protocol with
  | .em4100 => classEm P (pulseLength now s)
  | .fdxb => classFdx P (pulseLength now s)

/-- What CLASSIFY writes: `lastEdge` and `pulseCount`, whatever the class (rule R101). -/
def countEdge (now : U32) (s : State) : State := { s with lastEdge := now, pulseCount := s.pulseCount + 1 }

/-- EDGE.IGNORE: nothing changes, not even `lastEdge` or `pulseCount` (rule R100). -/
def execEdgeIgnore (s : State) : Host.Outcome State Fault Refusal := .next (respond .silent s)

/-- CLASSIFY: returns the class, measured before `lastEdge` is written (rule R101). -/
def execClassify (now : U32) (s : State) : Host.Outcome State Fault Refusal :=
  .next (respond (.pulse (classAt params now s)) (countEdge now s))

/-- CLASS_EM as an operation: returns the class (rule R102). -/
def execClassEm (dt : U32) (s : State) : Host.Outcome State Fault Refusal :=
  .next (respond (.pulse (classEm params dt)) s)

/-- CLASS_FDX as an operation: returns the class (rule R103). -/
def execClassFdx (dt : U32) (s : State) : Host.Outcome State Fault Refusal :=
  .next (respond (.pulse (classFdx params dt)) s)

/-- FREEZE: after CLASSIFY nothing more happens (rule R104). -/
def execFreeze (s : State) : Host.Outcome State Fault Refusal := .next (respond .silent s)

end Sys2Proof.Machine
end

