-- ==== Sys2Proof/Machine/Em4100.lean ====
section
/-! DEFINITION. The EM4100 decoder C2 (41_em4100_decoder.md). SEEK_HEADER is `ones < 9`, ASSEMBLE is `ones == 9`
(rule R129). -/

namespace Sys2Proof.Machine

/-- EM_BIT in SEEK_HEADER: count consecutive ones, back to 0 on a 0 (rule R124). -/
def emBitSeek (b : Bool) (s : State) : State := if b then { s with ones := s.ones + 1 } else { s with ones := 0 }

/-- EM_FRAMEEND: the column check and the verdict (rule R127). FRAME_COMPLETE and INTEGRITY_FAILED are transient. -/
def emFrameend (s : State) : State :=
  let complete : State := { s with flag := .frameComplete }
  let checked : State := { complete with failMap := failMapAfterColumns complete }
  if checked.failMap = 0#11 then { checked with flag := .integrityPassed }
  else resync .parityFail { checked with flag := .integrityFailed }

/-- EM_ROWEND: the row's parity check and the next row, or the frame's end (rule R126). -/
def emRowend (b : Bool) (s : State) : State :=
  if s.byteCtr ≤ 9#4 then
    { s with failMap := failMapAfterRow b s, rowPar := false, byteCtr := s.byteCtr + 1, bitCtr := 4 }
  else emFrameend { s with rowPar := false }

/-- EM_BIT in ASSEMBLE: store the bit, then the next position or the row's end (rule R125). -/
def emBitStore (b : Bool) (s : State) : Except Fault State :=
  match memWriteBit s.byteCtr.toNat s.bitCtr.toNat b s with
  | .error f => .error f
  | .ok s' =>
    if 1#4 ≤ s'.bitCtr then .ok { s' with rowPar := s'.rowPar ^^ b, bitCtr := s'.bitCtr - 1 }
    else .ok (emRowend b s')

/-- EM_BIT (rule R124, rule R125, rule R129). -/
def emBit (b : Bool) (s : State) : Except Fault State :=
  if s.ones < 9#4 then .ok (emBitSeek b s)
  else if s.ones = 9#4 then emBitStore b s
  else .error .unusedCounterValue

/-- EM.INVALID: `resync InvalidPulse` (rule R121). -/
def emInvalid (s : State) : State := resync .invalidPulseEm s

/-- EM.LONG: the gate opens, any half is dropped, and the level is a bit (rule R122). -/
def emLong (level : Bool) (s : State) : Except Fault State :=
  emBit level { s with longSeen := true, emHalf := false }

/-- EM.SHORT: ignored before the first LONG; else the first or the second of a pair (rule R123). -/
def emShort (level : Bool) (s : State) : Except Fault State :=
  if s.longSeen = false then .ok s
  else if s.emHalf = false then .ok { s with emHalf := true }
  else emBit level { s with emHalf := false }

/-- EM_STEP(cls, level) (rule R105). -/
def emStep (cls : PulseClass) (level : Bool) (s : State) : Except Fault State :=
  match cls with
  | .invalid => .ok (emInvalid s)
  | .long => emLong level s
  | .short => emShort level s

/-- EM.INVALID as an operation (rule R121). -/
def execEmInvalid (s : State) : Host.Outcome State Fault Refusal := .next (respond .silent (emInvalid s))

/-- EM.LONG as an operation (rule R122). -/
def execEmLong (level : Bool) (s : State) : Host.Outcome State Fault Refusal := answer .silent (emLong level s)

/-- EM.SHORT as an operation (rule R123). -/
def execEmShort (level : Bool) (s : State) : Host.Outcome State Fault Refusal := answer .silent (emShort level s)

/-- EM_BIT.SEEK as an operation (rule R124). -/
def execEmBitSeek (b : Bool) (s : State) : Host.Outcome State Fault Refusal := .next (respond .silent (emBitSeek b s))

/-- EM_BIT.STORE as an operation (rule R125). -/
def execEmBitStore (b : Bool) (s : State) : Host.Outcome State Fault Refusal := answer .silent (emBitStore b s)

/-- EM_ROWEND as an operation (rule R126). -/
def execEmRowend (b : Bool) (s : State) : Host.Outcome State Fault Refusal := .next (respond .silent (emRowend b s))

/-- EM_FRAMEEND as an operation (rule R127). -/
def execEmFrameend (s : State) : Host.Outcome State Fault Refusal := .next (respond .silent (emFrameend s))

/-- RESYNC_EM as an operation (rule R128). -/
def execResyncEm (s : State) : Host.Outcome State Fault Refusal := .next (respond .silent (resyncEm s))

end Sys2Proof.Machine
end

