-- ==== Sys2Proof/Machine/Fdxb.lean ====
section
/-! DEFINITION. The FDX-B decoder C3 (42_fdxb_decoder.md). SEEK_HEADER is `bitCtr == 10`, ASSEMBLE is `bitCtr <= 8`
(rule R162). The decoder takes the pulse class only (rule R164). -/

namespace Sys2Proof.Machine

/-- FDX_SEEK: the header starts ASSEMBLE at (0, 0) (rule R155). -/
def fdxSeek (hdr : Bool) (s : State) : State := if hdr then { s with byteCtr := 0, bitCtr := 0 } else s

/-- FDX_MARKER: on to the next octet; the marker, always 1, is not stored (rule R157). -/
def fdxMarker (_b : Bool) (s : State) : State := { s with byteCtr := s.byteCtr + 1, bitCtr := 0 }

/-- FDX_CRCCHECK (rule R158). INTEGRITY_FAILED is transient. -/
def fdxCrccheck (s : State) : State :=
  if crcCalculated s = crcReceived s then { s with flag := .passedPending }
  else resync .crcFail { s with flag := .integrityFailed }

/-- FDX_FRAMEEND (rule R160). FRAME_COMPLETE is transient. -/
def fdxFrameend (s : State) : State :=
  let complete : State := { s with flag := .frameComplete }
  { complete with flag := .integrityPassed }

/-- FDX_DATA: store the bit; at an octet's end the CRC check at octet 9, the frame's end at octet 12 (rule R156). -/
def fdxData (b : Bool) (s : State) : Except Fault State :=
  match memWriteBit s.byteCtr.toNat s.bitCtr.toNat b s with
  | .error f => .error f
  | .ok s' =>
    let next : State := { s' with bitCtr := s'.bitCtr + 1 }
    if next.bitCtr = 8#4 then
      if next.byteCtr = 9#4 then .ok (fdxCrccheck next)
      else if next.byteCtr = 12#4 then .ok (fdxFrameend next)
      else .ok next
    else .ok next

/-- FDX_BIT: the header test on the window as it is at entry, the shift, and the dispatch on `bitCtr` (rule R154). -/
def fdxBit (b : Bool) (s : State) : Except Fault State :=
  let hdr := headerSeen b s
  let s' : State := { s with tenZ := windowAfter b s }
  if s'.bitCtr = 10#4 then .ok (fdxSeek hdr s')
  else if s'.bitCtr < 8#4 then fdxData b s'
  else if s'.bitCtr = 8#4 then .ok (fdxMarker b s')
  else .error .unusedCounterValue

/-- FDX.INVALID: `resync InvalidPulse` (rule R151). -/
def fdxInvalid (s : State) : State := resync .invalidPulseFdx s

/-- FDX.LONG: always a 1 (rule R152). -/
def fdxLong (s : State) : Except Fault State := fdxBit true { s with pulse2 := false }

/-- FDX.SHORT: a second half emits nothing; a first half where the marker must stand resyncs; any other first half emits a
0 (rule R153). -/
def fdxShort (s : State) : Except Fault State :=
  if s.pulse2 = true then .ok { s with pulse2 := false }
  else if s.bitCtr = 8#4 then .ok (resync .markerViolation s)
  else fdxBit false { s with pulse2 := true }

/-- FDX_STEP(cls) (rule R105). -/
def fdxStep (cls : PulseClass) (s : State) : Except Fault State :=
  match cls with
  | .invalid => .ok (fdxInvalid s)
  | .long => fdxLong s
  | .short => fdxShort s

/-- FDX.INVALID as an operation (rule R151). -/
def execFdxInvalid (s : State) : Host.Outcome State Fault Refusal := .next (respond .silent (fdxInvalid s))

/-- FDX.LONG as an operation (rule R152). -/
def execFdxLong (s : State) : Host.Outcome State Fault Refusal := answer .silent (fdxLong s)

/-- FDX.SHORT as an operation (rule R153). -/
def execFdxShort (s : State) : Host.Outcome State Fault Refusal := answer .silent (fdxShort s)

/-- FDX_BIT as an operation (rule R154). -/
def execFdxBit (b : Bool) (s : State) : Host.Outcome State Fault Refusal := answer .silent (fdxBit b s)

/-- FDX_SEEK as an operation (rule R155). -/
def execFdxSeek (hdr : Bool) (s : State) : Host.Outcome State Fault Refusal := .next (respond .silent (fdxSeek hdr s))

/-- FDX_DATA as an operation (rule R156). -/
def execFdxData (b : Bool) (s : State) : Host.Outcome State Fault Refusal := answer .silent (fdxData b s)

/-- FDX_MARKER as an operation (rule R157). -/
def execFdxMarker (b : Bool) (s : State) : Host.Outcome State Fault Refusal := .next (respond .silent (fdxMarker b s))

/-- FDX_CRCCHECK as an operation (rule R158). -/
def execFdxCrccheck (s : State) : Host.Outcome State Fault Refusal := .next (respond .silent (fdxCrccheck s))

/-- CRC16 as an operation: returns the 16-bit value, changes no register (rule R159). -/
def execCrc16 (bytes : List Byte) (s : State) : Host.Outcome State Fault Refusal :=
  .next (respond (.bits16 (crc16 bytes)) s)

/-- FDX_FRAMEEND as an operation (rule R160). -/
def execFdxFrameend (s : State) : Host.Outcome State Fault Refusal := .next (respond .silent (fdxFrameend s))

/-- RESYNC_FDX as an operation (rule R161). -/
def execResyncFdx (s : State) : Host.Outcome State Fault Refusal := .next (respond .silent (resyncFdx s))

end Sys2Proof.Machine
end

