-- ==== Sys2Proof/Machine/Edge.lean ====
section
/-! DEFINITION. The EDGE event (rule R100) and its dispatch to a decoder (rule R105). -/

namespace Sys2Proof.Machine

/-- The edge is accepted: the handler is attached and the line is the selected one (rule R100). -/
def accepts (line : Line) (s : State) : Bool := s.armed && (line == selLine s)

/-- DISPATCH: the decoder of the selected protocol takes the pulse; FDX-B does not take the level (rule R105). -/
def dispatch (cls : PulseClass) (level : Bool) (s : State) : Except Fault State :=
  match s.protocol with
  | .em4100 => emStep cls level s
  | .fdxb => fdxStep cls s

/-- An accepted edge after CLASSIFY: frozen after success, else dispatched (rule R100, rule R104). -/
def decodePulse (cls : PulseClass) (level : Bool) (s : State) : Except Fault State :=
  if s.flag = .integrityPassed then .ok s else dispatch cls level s

/-- EDGE with the parameters `P` (rule R100). -/
def edge (P : Config.Params) (line : Line) (level : Bool) (now : U32) (s : State) : Except Fault State :=
  if accepts line s then decodePulse (classAt P now s) level (countEdge now s) else .ok s

/-- EDGE: no response (rule R80, rule R100). -/
def execEdge (line : Line) (level : Bool) (now : U32) (s : State) : Host.Outcome State Fault Refusal :=
  answer .silent (edge params line level now s)

/-- DISPATCH as an operation (rule R105). -/
def execDispatch (cls : PulseClass) (level : Bool) (s : State) : Host.Outcome State Fault Refusal :=
  answer .silent (dispatch cls level s)

end Sys2Proof.Machine
end

