-- ==== Sys2Proof/Machine/Antenna.lean ====
section
/-! DEFINITION. The antenna controller C4 and SHUT (43_antenna_controller.md). Level 1 on a shutdown line turns its antenna
off (rule R182). -/

namespace Sys2Proof.Machine

/-- ANT_ENABLE(c): both lines in one step, the other circuit off (rule R180). -/
def antEnable (c : BitVec 2) (s : State) : State :=
  if c = 1#2 then { s with antC := false, antD := true } else { s with antC := true, antD := false }

/-- ANT_DISABLE_ALL (rule R181). -/
def antDisableAll (s : State) : State := { s with antC := true, antD := true }

/-- SHUT: REJECT while busy, else both antennas off and OK (rule R183). -/
def shut (s : State) : State := if busy s then reject .busyShut s else respond .ok (antDisableAll s)

/-- SHUT (rule R183). -/
def execShut (s : State) : Host.Outcome State Fault Refusal := .next (shut s)

/-- ANT_ENABLE as an operation (rule R180). -/
def execAntEnable (c : BitVec 2) (s : State) : Host.Outcome State Fault Refusal := .next (respond .silent (antEnable c s))

/-- ANT_DISABLE_ALL as an operation (rule R181). -/
def execAntDisableAll (s : State) : Host.Outcome State Fault Refusal := .next (respond .silent (antDisableAll s))

/-- SHUT.REJECT: REJECT, no state change (rule R183). -/
def execShutReject (s : State) : Host.Outcome State Fault Refusal := .next (reject .busyShut s)

end Sys2Proof.Machine
end

