-- ==== Sys2Proof/Machine/Session.lean ====
section
/-! DEFINITION. The read session C5 (44_read_session.md): READ, ARMCLEAR, TICK in its three forms, FINISH. -/

namespace Sys2Proof.Machine

/-- ARMCLEAR(p): all assembly state of both protocols, the buffer, the pulse counter and `lastEdge` (rule R192). -/
def armclear (p : Protocol) (s : State) : State :=
  { s with
    lastEdge := 0, pulseCount := 0, protocol := p, byteCtr := 0
    bitCtr := match p with
      | .em4100 => 4
      | .fdxb => 10
    flag := .inProgress, buf := []
    ones := 0, rowPar := false, failMap := 0, longSeen := false, emHalf := false
    tenZ := 0xFFFF, pulse2 := false }

/-- READ_ACCEPT, in the order rule R191 gives. -/
def readAccept (p : Protocol) (c : BitVec 2) (cd rt : U32) (s : State) : State :=
  { armclear p (antEnable c { s with circuit := c }) with
    cd := cd, rt := rt, msCount := 0, outcome := .noTag, done := false, armed := true, sess := .check }

/-- The cause a READ is rejected for, tested in the order Busy, BadCircuit, BadCheckDelay, BadReadTime (rule R190,
rule R246); `none` when it is accepted. -/
def readRejection (P : Config.Params) (c : BitVec 2) (cd rt : U32) (s : State) : Option RejectCause :=
  if busy s then some .busy
  else if c ≠ 1#2 ∧ c ≠ 2#2 then some .badCircuit
  else if cd < P.gateMargin then some .badCheckDelay
  else if rt < cd then some .badReadTime
  else none

/-- READ with the parameters `P`: REJECT and no change, or READ_ACCEPT and OK (rule R190). -/
def read (P : Config.Params) (p : Protocol) (c : BitVec 2) (cd rt : U32) (s : State) : State :=
  match readRejection P c cd rt s with
  | some cause => reject cause s
  | none => respond .ok (readAccept p c cd rt s)

/-- FINISH(o): disarm, antennas off, the result, idle (rule R196). -/
def finish (o : ReadOutcome) (s : State) : State :=
  { antDisableAll { s with armed := false } with outcome := o, done := true, sess := .idle }

/-- POLL: the flag before the deadline; only INTEGRITY_PASSED counts (rule R195). -/
def poll (s : State) : State :=
  if s.flag = .integrityPassed then finish .tagDecoded s
  else if s.rt ≤ s.msCount then finish .noTag s
  else s

/-- One more millisecond of the session (rule R194, rule R195). -/
def countMs (s : State) : State := { s with msCount := s.msCount + 1 }

/-- What TICK in CHECK does once the millisecond is counted: sleep on, or the gate, then the first poll (rule R194). -/
def gate (P : Config.Params) (s : State) : State :=
  if s.cd ≤ s.msCount then
    if gateFails P s then finish .noTag s else poll { s with sess := .wait }
  else s

/-- TICK in CHECK (rule R194). -/
def tickCheck (P : Config.Params) (s : State) : State := gate P (countMs s)

/-- TICK in WAIT (rule R195). -/
def tickWait (s : State) : State := poll (countMs s)

/-- TICK, by the session state (rule R193 to rule R195). -/
def tick (P : Config.Params) (s : State) : State :=
  match s.sess with
  | .idle => s
  | .check => tickCheck P s
  | .wait => tickWait s

/-- TICK: no response (rule R80). -/
def execTick (s : State) : Host.Outcome State Fault Refusal := .next (respond .silent (tick params s))

/-- READ (rule R190). -/
def execRead (p : Protocol) (c : BitVec 2) (cd rt : U32) (s : State) : Host.Outcome State Fault Refusal :=
  .next (read params p c cd rt s)

/-- READ.REJECT: REJECT, no state change (rule R190). -/
def execReadReject (s : State) : Host.Outcome State Fault Refusal := .next (reject .busy s)

/-- READ_ACCEPT as an operation (rule R191). -/
def execReadAccept (p : Protocol) (c : BitVec 2) (cd rt : U32) (s : State) : Host.Outcome State Fault Refusal :=
  .next (respond .silent (readAccept p c cd rt s))

/-- ARMCLEAR as an operation (rule R192). -/
def execArmclear (p : Protocol) (s : State) : Host.Outcome State Fault Refusal := .next (respond .silent (armclear p s))

/-- TICK.IDLE: nothing (rule R193). -/
def execTickIdle (s : State) : Host.Outcome State Fault Refusal := .next (respond .silent s)

/-- TICK.CHECK as an operation (rule R194). -/
def execTickCheck (s : State) : Host.Outcome State Fault Refusal := .next (respond .silent (tickCheck params s))

/-- TICK.WAIT as an operation (rule R195). -/
def execTickWait (s : State) : Host.Outcome State Fault Refusal := .next (respond .silent (tickWait s))

/-- FINISH as an operation (rule R196). -/
def execFinish (o : ReadOutcome) (s : State) : Host.Outcome State Fault Refusal := .next (respond .silent (finish o s))

end Sys2Proof.Machine
end

