-- ==== Sys2Proof/Machine/System.lean ====
section
/-! DEFINITION. The events that touch no session and no decoder: NOP (rule R96), the reserved kind (rule R90), RDBUF
(rule R67) and RESET (rule R270). -/

namespace Sys2Proof.Machine

/-- RESET's assignments (rule R270). The pending trace is the environment's and is not a register of the block. -/
def resetState (s : State) : State :=
  { s with
    lastEdge := 0, pulseCount := 0
    armed := false, protocol := .em4100, circuit := 0
    byteCtr := 0, bitCtr := 4, flag := .inProgress
    ones := 0, rowPar := false, failMap := 0, longSeen := false, emHalf := false
    tenZ := 0xFFFF, pulse2 := false
    buf := []
    sess := .idle, msCount := 0, cd := 0, rt := 0, outcome := .noTag, done := false
    antC := true, antD := true }

/-- RDBUF's value: `(idx <= 12) ? buf[idx] : 0x00` (rule R67). -/
def readPort (idx : BitVec 4) (s : State) : Byte := if idx ≤ 12#4 then s.buf.read idx.toNat else 0x00#8

/-- NOP: no state change, no response (rule R96). -/
def execNop (s : State) : Host.Outcome State Fault Refusal := .next (respond .silent s)

/-- RDBUF: one byte, no state change (rule R67). -/
def execRdbuf (idx : BitVec 4) (s : State) : Host.Outcome State Fault Refusal :=
  .next (respond (.byte (readPort idx s)) s)

/-- Kind 6: REJECT, no state change, whatever the other bits hold (rule R90 (a)). -/
def execReserved6 (_payload : BitVec 69) (s : State) : Host.Outcome State Fault Refusal := .next (reject .reserved s)

/-- RESET: accepted in every state, no response (rule R270). -/
def execReset (s : State) : Host.Outcome State Fault Refusal := .next (respond .silent (resetState s))

end Sys2Proof.Machine
end

