-- ==== Sys2Proof/Machine/Views.lean ====
section
/-! DEFINITION. The frame views C6 (45_frame_views.md): pure functions of the 13 bytes `raw`, and as operations the
functions applied to the buffer, which they read and do not write (rule R227 says when their values are a frame). -/

namespace Sys2Proof.Machine

/-- `raw[i]`. -/
def rawByte (raw : List Byte) (i : Nat) : Byte := raw.getD i 0#8

/-- `raw[i]` widened to `w` bits and moved `k` bits up. -/
def rawAt (w : Nat) (raw : List Byte) (i k : Nat) : BitVec w := (rawByte raw i).zeroExtend w <<< k

/-- `nib(r)`: row r's data bits D3..D0 (rule R220). -/
def emNibble (raw : List Byte) (r : Nat) : Byte := (rawByte raw r >>> 1) &&& 0xF#8

/-- `EM_BYTE(k)` (rule R220). -/
def emByte (raw : List Byte) (k : Nat) : Byte := (emNibble raw (2 * k) <<< 4) ||| emNibble raw (2 * k + 1)

/-- EM_PAYLOAD (rule R220). -/
def emPayload (raw : List Byte) : List Byte := (List.range 5).map (emByte raw)

/-- EM_USER (rule R221). -/
def emUser (raw : List Byte) : Byte := emByte raw 0

/-- EM_ID, big-endian over payload bytes 1 to 4 (rule R221). -/
def emId (raw : List Byte) : BitVec 32 :=
  ((emByte raw 1).zeroExtend 32 <<< 24) ||| ((emByte raw 2).zeroExtend 32 <<< 16) |||
  ((emByte raw 3).zeroExtend 32 <<< 8) ||| (emByte raw 4).zeroExtend 32

/-- An uppercase hexadecimal digit. -/
def hexDigit (n : Nat) : Char := if n < 10 then Char.ofNat (48 + n) else Char.ofNat (55 + n)

/-- `digits` hexadecimal digits of `n`, most significant first. -/
def hexDigits : Nat → Nat → List Char
  | 0, _ => []
  | d + 1, n => hexDigits d (n / 16) ++ [hexDigit (n % 16)]

/-- EM_HEX: the payload bytes, two uppercase digits each, first byte first (rule R222). -/
def emHex (raw : List Byte) : List Char := (emPayload raw).flatMap (fun b => hexDigits 2 b.toNat)

/-- FDX_ANIMAL (rule R223). -/
def fdxAnimal (raw : List Byte) : BitVec 38 :=
  rawAt 38 raw 0 0 ||| rawAt 38 raw 1 8 ||| rawAt 38 raw 2 16 ||| rawAt 38 raw 3 24 |||
  ((rawByte raw 4 &&& 0x3F#8).zeroExtend 38 <<< 32)

/-- FDX_COUNTRY: `(raw[5] << 2) or (raw[4] >> 6)` (rule R224). -/
def fdxCountry (raw : List Byte) : BitVec 10 := rawAt 10 raw 5 2 ||| (rawByte raw 4 >>> 6).zeroExtend 10

/-- FDX_EXT (rule R225). -/
def fdxExt (raw : List Byte) : Byte := rawByte raw 10

/-- FDX_EXT24 (rule R225). -/
def fdxExt24 (raw : List Byte) : BitVec 24 := rawAt 24 raw 10 0 ||| rawAt 24 raw 11 8 ||| rawAt 24 raw 12 16

/-- FDX_CRCFIELD (rule R225). -/
def fdxCrcfield (raw : List Byte) : BitVec 16 := le16 (rawByte raw 8) (rawByte raw 9)

/-- FDX_ID64 (rule R225). -/
def fdxId64 (raw : List Byte) : BitVec 64 :=
  rawAt 64 raw 0 0 ||| rawAt 64 raw 1 8 ||| rawAt 64 raw 2 16 ||| rawAt 64 raw 3 24 |||
  rawAt 64 raw 4 32 ||| rawAt 64 raw 5 40 ||| rawAt 64 raw 6 48 ||| rawAt 64 raw 7 56

/-- FDX_IDLOW: `FDX_ANIMAL and 0xFFFFFFFF` (rule R225). -/
def fdxIdlow (raw : List Byte) : BitVec 32 := (fdxAnimal raw &&& 0xFFFFFFFF#38).setWidth 32

/-- FDX_STR: the country as three hex digits, a full stop, the animal number as ten (rule R226). -/
def fdxStr (raw : List Byte) : List Char :=
  hexDigits 3 (fdxCountry raw).toNat ++ ['.'] ++ hexDigits 10 (fdxAnimal raw).toNat

/-- `process_em4100(raw)`: user byte, identifier, hex string (rule R91, rule R221). -/
def processEm4100 (raw : List Byte) : Byte × BitVec 32 × List Char := (emUser raw, emId raw, emHex raw)

/-- `process_fdxb(raw)`: country as 16 bits, extension, low identifier bits, string (rule R91, rule R225). -/
def processFdxb (raw : List Byte) : BitVec 16 × Byte × BitVec 32 × List Char :=
  ((fdxCountry raw).zeroExtend 16, fdxExt raw, fdxIdlow raw, fdxStr raw)

/-- EM_PAYLOAD as an operation (rule R220). -/
def execEmPayload (s : State) : Host.Outcome State Fault Refusal := .next (respond (.bytes (emPayload (rawFrame s))) s)

/-- EM_USER as an operation (rule R221). -/
def execEmUser (s : State) : Host.Outcome State Fault Refusal := .next (respond (.byte (emUser (rawFrame s))) s)

/-- EM_ID as an operation (rule R221). -/
def execEmId (s : State) : Host.Outcome State Fault Refusal := .next (respond (.bits32 (emId (rawFrame s))) s)

/-- EM_HEX as an operation (rule R222). -/
def execEmHex (s : State) : Host.Outcome State Fault Refusal := .next (respond (.text (emHex (rawFrame s))) s)

/-- FDX_ANIMAL as an operation (rule R223). -/
def execFdxAnimal (s : State) : Host.Outcome State Fault Refusal := .next (respond (.bits38 (fdxAnimal (rawFrame s))) s)

/-- FDX_COUNTRY as an operation (rule R224). -/
def execFdxCountry (s : State) : Host.Outcome State Fault Refusal := .next (respond (.bits10 (fdxCountry (rawFrame s))) s)

/-- FDX_EXT as an operation (rule R225). -/
def execFdxExt (s : State) : Host.Outcome State Fault Refusal := .next (respond (.byte (fdxExt (rawFrame s))) s)

/-- FDX_EXT24 as an operation (rule R225). -/
def execFdxExt24 (s : State) : Host.Outcome State Fault Refusal := .next (respond (.bits24 (fdxExt24 (rawFrame s))) s)

/-- FDX_CRCFIELD as an operation (rule R225). -/
def execFdxCrcfield (s : State) : Host.Outcome State Fault Refusal := .next (respond (.bits16 (fdxCrcfield (rawFrame s))) s)

/-- FDX_ID64 as an operation (rule R225). -/
def execFdxId64 (s : State) : Host.Outcome State Fault Refusal := .next (respond (.bits64 (fdxId64 (rawFrame s))) s)

/-- FDX_IDLOW as an operation (rule R225). -/
def execFdxIdlow (s : State) : Host.Outcome State Fault Refusal := .next (respond (.bits32 (fdxIdlow (rawFrame s))) s)

/-- FDX_STR as an operation (rule R226). -/
def execFdxStr (s : State) : Host.Outcome State Fault Refusal := .next (respond (.text (fdxStr (rawFrame s))) s)

end Sys2Proof.Machine
end

