-- ==== Sys2Proof/Machine/Dispatch.lean ====
section
/-! DEFINITION. One arm per constructor of `Instr`: its meaning, a definition of its own in the file of its family
(rule R89). -/

namespace Sys2Proof.Machine

/-- What each operation does. -/
def exec (i : Instr) (s : State) : Host.Outcome State Fault Refusal :=
  match i with
  | .nop => Sys2Proof.Machine.execNop s
  | .edge line level now => Sys2Proof.Machine.execEdge line level now s
  | .tick => Sys2Proof.Machine.execTick s
  | .read p c cd rt => Sys2Proof.Machine.execRead p c cd rt s
  | .shut => Sys2Proof.Machine.execShut s
  | .rdbuf idx => Sys2Proof.Machine.execRdbuf idx s
  | .reserved6 payload => Sys2Proof.Machine.execReserved6 payload s
  | .reset => Sys2Proof.Machine.execReset s
  | .edgeIgnore => Sys2Proof.Machine.execEdgeIgnore s
  | .classify now => Sys2Proof.Machine.execClassify now s
  | .classEm dt => Sys2Proof.Machine.execClassEm dt s
  | .classFdx dt => Sys2Proof.Machine.execClassFdx dt s
  | .freeze => Sys2Proof.Machine.execFreeze s
  | .dispatch cls level => Sys2Proof.Machine.execDispatch cls level s
  | .emInvalid => Sys2Proof.Machine.execEmInvalid s
  | .emLong level => Sys2Proof.Machine.execEmLong level s
  | .emShort level => Sys2Proof.Machine.execEmShort level s
  | .emBitSeek b => Sys2Proof.Machine.execEmBitSeek b s
  | .emBitStore b => Sys2Proof.Machine.execEmBitStore b s
  | .emRowend b => Sys2Proof.Machine.execEmRowend b s
  | .emFrameend => Sys2Proof.Machine.execEmFrameend s
  | .resyncEm => Sys2Proof.Machine.execResyncEm s
  | .fdxInvalid => Sys2Proof.Machine.execFdxInvalid s
  | .fdxLong => Sys2Proof.Machine.execFdxLong s
  | .fdxShort => Sys2Proof.Machine.execFdxShort s
  | .fdxBit b => Sys2Proof.Machine.execFdxBit b s
  | .fdxSeek hdr => Sys2Proof.Machine.execFdxSeek hdr s
  | .fdxData b => Sys2Proof.Machine.execFdxData b s
  | .fdxMarker b => Sys2Proof.Machine.execFdxMarker b s
  | .fdxCrccheck => Sys2Proof.Machine.execFdxCrccheck s
  | .crc16 bytes => Sys2Proof.Machine.execCrc16 bytes s
  | .fdxFrameend => Sys2Proof.Machine.execFdxFrameend s
  | .resyncFdx => Sys2Proof.Machine.execResyncFdx s
  | .antEnable c => Sys2Proof.Machine.execAntEnable c s
  | .antDisableAll => Sys2Proof.Machine.execAntDisableAll s
  | .readReject => Sys2Proof.Machine.execReadReject s
  | .readAccept p c cd rt => Sys2Proof.Machine.execReadAccept p c cd rt s
  | .armclear p => Sys2Proof.Machine.execArmclear p s
  | .tickIdle => Sys2Proof.Machine.execTickIdle s
  | .tickCheck => Sys2Proof.Machine.execTickCheck s
  | .tickWait => Sys2Proof.Machine.execTickWait s
  | .finish o => Sys2Proof.Machine.execFinish o s
  | .shutReject => Sys2Proof.Machine.execShutReject s
  | .emPayload => Sys2Proof.Machine.execEmPayload s
  | .emUser => Sys2Proof.Machine.execEmUser s
  | .emId => Sys2Proof.Machine.execEmId s
  | .emHex => Sys2Proof.Machine.execEmHex s
  | .fdxAnimal => Sys2Proof.Machine.execFdxAnimal s
  | .fdxCountry => Sys2Proof.Machine.execFdxCountry s
  | .fdxExt => Sys2Proof.Machine.execFdxExt s
  | .fdxExt24 => Sys2Proof.Machine.execFdxExt24 s
  | .fdxCrcfield => Sys2Proof.Machine.execFdxCrcfield s
  | .fdxId64 => Sys2Proof.Machine.execFdxId64 s
  | .fdxIdlow => Sys2Proof.Machine.execFdxIdlow s
  | .fdxStr => Sys2Proof.Machine.execFdxStr s

end Sys2Proof.Machine
end

