-- ==== Sys2Proof/Machine/Step.lean ====
section
/-! DEFINITION. One step of the block: the next event of the trace, decoded and run (rule R5, rule R70). -/

namespace Sys2Proof.Machine

/-- One step. With no event pending it is a NOP, "a clock cycle with no event" (rule R96). A word that is no event is
rejected (rule R90 (a)). -/
def step (s : State) : Host.Outcome State Fault Refusal :=
  match takeEvent s with
  | none => exec .nop s
  | some (w, s') =>
    match decode w with
    | .ok i => exec i s'
    | .error why => rejectWord why s'

/-- `s` with the word `w` as the very next event of its trace, ahead of whatever was pending. -/
def State.withFetchWord (s : State) (nbits w : Nat) : State := pushEvent nbits w s

end Sys2Proof.Machine
end

