-- ==== Sys2Proof/Machine/Cycle.lean ====
section
/-! DEFINITION. Several events in order, and the order of events that fall in one clock cycle of a clocked realisation
(rule R81, rule R245). -/

namespace Sys2Proof.Machine

/-- Run instructions one after another, stopping at the first fault or refusal (rule R70: a sequence of atomic steps). -/
def execAll : List Instr → State → Host.Outcome State Fault Refusal
  | [], s => .next s
  | i :: is, s =>
    match exec i s with
    | .next s' => execAll is s'
    | .fault f => .fault f
    | .refused r => .refused r

/-- A host command: READ, SHUT or RDBUF (rule R81). -/
inductive HostCommand where
  | read (protocol : Protocol) (circuit : BitVec 2) (checkDelay readTime : U32)
  | shut
  | rdbuf (idx : BitVec 4)
  deriving DecidableEq, Repr

/-- The event a host command is. -/
def HostCommand.instr : HostCommand → Instr
  | .read p c cd rt => .read p c cd rt
  | .shut => .shut
  | .rdbuf idx => .rdbuf idx

/-- What may arrive in one clock cycle. Two edges in one cycle cannot be expressed (rule R245). -/
structure CycleInputs where
  reset : Bool
  edge : Option (Line × Bool × U32)
  tick : Bool
  command : Option HostCommand
  deriving DecidableEq, Repr

/-- The events of a cycle, in the order RESET, EDGE, TICK, host command (rule R81). -/
def CycleInputs.events (c : CycleInputs) : List Instr :=
  (if c.reset then [.reset] else []) ++
  (match c.edge with
    | some (line, level, now) => [.edge line level now]
    | none => []) ++
  (if c.tick then [.tick] else []) ++
  (match c.command with
    | some cmd => [cmd.instr]
    | none => [])

/-- A cycle's events run in that order; a cycle with no event is a NOP (rule R96). -/
def cycle (c : CycleInputs) (s : State) : Host.Outcome State Fault Refusal :=
  match c.events with
  | [] => exec .nop s
  | is => execAll is s

/-- The result of a finished read, if there is one: `outcome` once `done == 1` (rule R197). -/
def readResult (s : State) : Option ReadOutcome := if s.done then some s.outcome else none

end Sys2Proof.Machine
end

