-- ==== Sys2Proof/Machine/Trace.lean ====
section
/-! DEFINITION. The trace notation's pseudo-operations and the document's API names as events (rule R91, rule R198). -/

namespace Sys2Proof.Machine

/-- A line of a trace: an event, or one of the two pseudo-operations (rule R91). -/
inductive TraceLine where
  /-- An event as it stands. -/
  | event (i : Instr)
  /-- `EDGE+ line, dt, level`. -/
  | edgePlus (line : Line) (dt : U32) (level : Bool)
  /-- `TICK*n`. -/
  | tickTimes (n : Nat)
  deriving DecidableEq, Repr

/-- The `now` of the previous EDGE or EDGE+ line, after the line `l` (rule R91). -/
def TraceLine.lastNow (t : U32) : TraceLine → U32
  | .event (.edge _ _ now) => now
  | .event _ => t
  | .edgePlus _ dt _ => t + dt
  | .tickTimes _ => t

/-- The events a line stands for (rule R91). -/
def TraceLine.expand (t : U32) : TraceLine → List Instr
  | .event i => [i]
  | .edgePlus line dt level => [.edge line level (t + dt)]
  | .tickTimes n => List.replicate n .tick

/-- The events of a trace whose previous edge was at `t`, 0 if there is none (rule R91). -/
def expandTrace : U32 → List TraceLine → List Instr
  | _, [] => []
  | t, l :: ls => l.expand t ++ expandTrace (l.lastNow t) ls

/-- `fast_read(circuit, checkDelay, readTime)`: the READ it issues; its value is `readResult` (rule R91, rule R198). -/
def fastRead (circuit : BitVec 2) (checkDelay readTime : U32) : Instr := .read .em4100 circuit checkDelay readTime

/-- `iso_fast_read(circuit, checkDelay, readTime)`: the READ it issues (rule R91, rule R198). -/
def isoFastRead (circuit : BitVec 2) (checkDelay readTime : U32) : Instr := .read .fdxb circuit checkDelay readTime

/-- `shutdown()` (rule R85, rule R91). -/
def shutdown : Instr := .shut

end Sys2Proof.Machine
end

