-- ==== Sys2Proof/Machine/Frames.lean ====
section
/-! DEFINITION. What a tag sends: the two on-air frame formats (rule R92, rule R93) and the two line codes as the decoders read
them (rule R94, rule R95), and the decoders fed with a list of bits or of pulses. -/

namespace Sys2Proof.Machine

/-- The four bits of a nibble, D3 first (rule R92). -/
def nibbleBits (n : BitVec 4) : List Bool := [n.getLsbD 3, n.getLsbD 2, n.getLsbD 1, n.getLsbD 0]

/-- A data row: the nibble, then its even-parity bit (rule R92). -/
def emRowBits (n : BitVec 4) : List Bool := nibbleBits n ++ [xorAll (nibbleBits n)]

/-- The XOR of all the nibbles: column c's parity is its bit c (rule R92). -/
def emColumns (nibbles : List (BitVec 4)) : BitVec 4 := nibbles.foldl (· ^^^ ·) 0#4

/-- The bits of an EM4100 frame after its header: ten rows, the column parities, the stop bit (rule R92). -/
def emBody (nibbles : List (BitVec 4)) (stop : Bool) : List Bool :=
  nibbles.flatMap emRowBits ++ nibbleBits (emColumns nibbles) ++ [stop]

/-- An EM4100 frame from its ten nibbles; the document gives no value for the stop bit, so it is an argument (rule R92). -/
def emFrame (nibbles : List (BitVec 4)) (stop : Bool) : List Bool := List.replicate 9 true ++ emBody nibbles stop

/-- Bit `j` of row `r` of the 55 bits after a header (rule R61, rule R92). -/
def emBodyBit (bits : List Bool) (r j : Nat) : Bool := bits.getD (5 * r + j) false

/-- The 55 bits after a header satisfy every row and every column parity; the stop bit takes no part (rule R127, rule R130). -/
def emBodyValid (bits : List Bool) : Bool :=
  (List.range 10).all (fun r => !xorAll ((List.range 5).map (fun j => emBodyBit bits r j))) &&
  (List.range 4).all (fun j => !xorAll ((List.range 11).map (fun r => emBodyBit bits r j)))

/-- A list of bits with bit `k` inverted. -/
def invertAt (bits : List Bool) (k : Nat) : List Bool := bits.set k (!bits.getD k false)

/-- The eight bits of an octet, least significant first (rule R93). -/
def octetBits (o : Byte) : List Bool := (List.range 8).map o.getLsbD

/-- An FDX-B frame from its thirteen octets: header, then each octet and its marker (rule R93). -/
def fdxFrame (octets : List Byte) : List Bool :=
  List.replicate 10 false ++ [true] ++ octets.flatMap (fun o => octetBits o ++ [true])

/-- The payload octets of an FDX-B frame from its numbers: animal (38 bits), country (10 bits), octets 6 and 7 (rule R93). -/
def fdxPayload (animal : BitVec 38) (country : BitVec 10) (o6 o7 : Byte) : List Byte :=
  let v : BitVec 48 := animal.setWidth 48 ||| (country.setWidth 48 <<< 38)
  (List.range 6).map (fun i => v.extractLsb' (8 * i) 8) ++ [o6, o7]

/-- The CRC octets of a payload, low byte first (rule R93). -/
def fdxCrcOctets (payload : List Byte) : List Byte :=
  [(crc16 payload).extractLsb' 0 8, (crc16 payload).extractLsb' 8 8]

/-- The pulses of Manchester bits that follow a bit `prev`, each with the level after it: two SHORTs when successive bits
are equal, one LONG when they differ (rule R94). -/
def manchesterPulses : Bool → List Bool → List (PulseClass × Bool)
  | _, [] => []
  | prev, b :: bs =>
    (if b = prev then [(.short, !b), (.short, b)] else [(.long, b)]) ++ manchesterPulses b bs

/-- The pulses of biphase bits: two SHORTs for a 0, one LONG for a 1 (rule R95). -/
def biphasePulses : List Bool → List PulseClass
  | [] => []
  | b :: bs => (if b then [.long] else [.short, .short]) ++ biphasePulses bs

/-- EM_BIT on each bit of a list. -/
def emBits : List Bool → State → Except Fault State
  | [], s => .ok s
  | b :: bs, s =>
    match emBit b s with
    | .error f => .error f
    | .ok s' => emBits bs s'

/-- FDX_BIT on each bit of a list. -/
def fdxBits : List Bool → State → Except Fault State
  | [], s => .ok s
  | b :: bs, s =>
    match fdxBit b s with
    | .error f => .error f
    | .ok s' => fdxBits bs s'

/-- The decoder's part of an accepted EDGE on each pulse of a list, freeze included (rule R104, rule R105). -/
def decodePulses : List (PulseClass × Bool) → State → Except Fault State
  | [], s => .ok s
  | (cls, level) :: ps, s =>
    match decodePulse cls level s with
    | .error f => .error f
    | .ok s' => decodePulses ps s'

end Sys2Proof.Machine
end

