-- ==== Sys2Proof/Safety.lean ====
section
/-! DEFINITION. What a state that a run from reset can reach looks like (rule R46, rule R129, rule R162, rule R184), what the
integrity flag promises of the buffer (rule R127, rule R158), and when the buffer is a received frame (rule R227). -/

namespace Sys2Proof.Machine

/-- The XOR of row `r`'s data bits, positions 4 to 1 (rule R126). -/
def rowParity (r : Nat) (s : State) : Bool := xorAll ((List.range 4).map (fun j => memReadBit r (4 - j) s))

/-- Every data row's parity bit and every column's parity bit is right (rule R127). -/
def emFrameGood (s : State) : Bool :=
  (List.range 10).all (fun r => rowParity r s == memReadBit r 0 s) && !columnsBad s

/-- The received CRC is the CRC of the payload (rule R158). -/
def fdxFrameGood (s : State) : Bool := crcCalculated s == crcReceived s

/-- The XOR of the data bits of the current row received so far: positions above `bitCtr` (rule R30). -/
def partialRowParity (s : State) : Bool :=
  xorAll ((List.range 4).map (fun j => decide (s.bitCtr.toNat < 4 - j) && memReadBit s.byteCtr.toNat (4 - j) s))

/-- The control part of a reachable state. -/
structure ControlInv (s : State) : Prop where
  /-- The buffer is in canonical form (rule R60). -/
  bufWf : s.buf.wf = true
  /-- `byteCtr <= 12` (rule R46). -/
  byteCtrLe : s.byteCtr ≤ 12#4
  /-- EM4100: `byteCtr <= 10` and `bitCtr <= 4` (rule R46). -/
  emCounters : s.protocol = .em4100 → s.byteCtr ≤ 10#4 ∧ s.bitCtr ≤ 4#4
  /-- FDX-B: `bitCtr` is in {0..8, 10} (rule R46). -/
  fdxBitCtr : s.protocol = .fdxb → s.bitCtr ≤ 8#4 ∨ s.bitCtr = 10#4
  /-- `ones <= 9` (rule R46). -/
  onesLe : s.ones ≤ 9#4
  /-- `flag` is IN_PROGRESS, INTEGRITY_PASSED, or PASSED_PENDING under FDX-B (rule R28, rule R46). -/
  flagStable : s.flag = .inProgress ∨ s.flag = .integrityPassed ∨ (s.flag = .passedPending ∧ s.protocol = .fdxb)
  /-- `armed == 1` exactly when `sess != IDLE` (rule R46). -/
  armedIff : s.armed = true ↔ s.sess ≠ .idle
  /-- `circuit` is 0, 1 or 2, and 1 or 2 during a session (rule R46). -/
  circuitLegal : s.circuit ≤ 2#2 ∧ (s.sess ≠ .idle → legalCircuit s.circuit)
  /-- Both antennas are off when idle; during a session exactly the selected one is on (rule R184). -/
  antennas : (s.antC, s.antD) = if s.sess = .idle then (true, true) else (decide (s.circuit ≠ 1#2), decide (s.circuit = 1#2))
  /-- `msCount <= rt` (rule R46). -/
  msLe : s.msCount ≤ s.rt
  /-- The durations of a running session were accepted by rule R190. -/
  durations : s.sess ≠ .idle → params.gateMargin ≤ s.cd ∧ s.cd ≤ s.rt
  /-- CHECK lasts until `msCount` reaches `cd`, WAIT until it reaches `rt` (rule R194, rule R195). -/
  sessTime : (s.sess = .check → s.msCount < s.cd) ∧ (s.sess = .wait → s.cd ≤ s.msCount ∧ s.msCount < s.rt)
  /-- `done` is set only when idle, and TAG_DECODED only with it and with a passed frame (rule R40, rule R227). -/
  result : (s.done = true → s.sess = .idle) ∧ (s.outcome = .tagDecoded → s.done = true ∧ s.flag = .integrityPassed)
  /-- `failMap[10] == 0` at a step boundary (rule R31). -/
  failMapTen : s.failMap.getLsbD 10 = false
  /-- EM4100 SEEK_HEADER is at the start of a frame (rule R129). -/
  emSeek : s.protocol = .em4100 → s.ones < 9#4 →
    s.byteCtr = 0#4 ∧ s.bitCtr = 4#4 ∧ s.rowPar = false ∧ s.failMap = 0#11 ∧ s.flag = .inProgress
  /-- No bit and no half before the first LONG (rule R32, rule R123). -/
  emGate : s.longSeen = false → s.ones = 0#4 ∧ s.emHalf = false
  /-- EM4100 success leaves the counters at the frame's last bit (rule R127). -/
  emPassed : s.protocol = .em4100 → s.flag = .integrityPassed →
    s.ones = 9#4 ∧ s.byteCtr = 10#4 ∧ s.bitCtr = 0#4 ∧ s.rowPar = false ∧ s.failMap = 0#11
  /-- Under FDX-B the EM4100 registers keep their cleared values (rule R47, rule R192). -/
  emQuiet : s.protocol = .fdxb →
    s.ones = 0#4 ∧ s.rowPar = false ∧ s.failMap = 0#11 ∧ s.longSeen = false ∧ s.emHalf = false
  /-- Under EM4100 the FDX-B registers keep their cleared values (rule R47, rule R192). -/
  fdxQuiet : s.protocol = .em4100 → s.tenZ = 0xFFFF#16 ∧ s.pulse2 = false
  /-- FDX-B SEEK_HEADER has `byteCtr == 0` (rule R162). -/
  fdxSeekZero : s.protocol = .fdxb → s.bitCtr = 10#4 → s.byteCtr = 0#4
  /-- FDX-B: no verdict before bit 7 of octet 9 is stored, and then always one (rule R158, rule R160). -/
  fdxPending : s.protocol = .fdxb →
    (s.flag = .inProgress ↔ s.byteCtr < 9#4 ∨ (s.byteCtr = 9#4 ∧ s.bitCtr < 8#4))
  /-- FDX-B: success is exactly the full octet 12 (rule R160). -/
  fdxPassed : s.protocol = .fdxb → (s.flag = .integrityPassed ↔ s.byteCtr = 12#4 ∧ s.bitCtr = 8#4)
  /-- FDX-B ASSEMBLE: the header's or the marker's 1 is still in the window, `bitCtr` places up (rule R163). -/
  fdxWindow : s.protocol = .fdxb → s.bitCtr ≤ 8#4 → s.tenZ.getLsbD s.bitCtr.toNat = true

/-- What the decoder's registers say of the buffer. -/
structure FrameInv (s : State) : Prop where
  /-- EM4100 writes only bits 4 to 0 of `buf[0..10]` (rule R36, rule R61). -/
  emLayout : s.protocol = .em4100 → ∀ i, (s.buf.read i).toNat < 32 ∧ (11 ≤ i → s.buf.read i = 0#8)
  /-- `failMap[r]` for `r` in 0 to 9 is 1 exactly when row `r` is complete and failed its parity check (rule R31). -/
  emRows : s.protocol = .em4100 → s.ones = 9#4 → ∀ r, r < 10 →
    s.failMap.getLsbD r = (decide (r < s.byteCtr.toNat) && (rowParity r s != memReadBit r 0 s))
  /-- `rowPar` is the XOR of the current row's data bits so far (rule R30). -/
  emRowPar : s.protocol = .em4100 → s.ones = 9#4 → s.flag ≠ .integrityPassed → s.rowPar = partialRowParity s
  /-- EM4100 success means the column parities hold (rule R127). -/
  emColumnsGood : s.protocol = .em4100 → s.flag = .integrityPassed → columnsBad s = false
  /-- FDX-B PASSED_PENDING and INTEGRITY_PASSED mean the CRC is right (rule R158). -/
  fdxCrcGood : s.protocol = .fdxb → s.flag = .passedPending ∨ s.flag = .integrityPassed → fdxFrameGood s = true

/-- A reachable state's invariant. -/
structure Inv (s : State) : Prop where
  control : ControlInv s
  frame : FrameInv s

/-- The buffer is a frame of the protocol `p`, received by the last read (rule R227, rule R275). -/
def holdsFrame (p : Protocol) (s : State) : Prop := s.done = true ∧ s.outcome = .tagDecoded ∧ s.protocol = p

/-- A step that does not stop. -/
def stepsOn (s : State) : Prop := ∃ t, step s = .next t

/-- The operation `i` runs from `s` and every register is then as in `t`, whatever the response field holds: what a claim says
of an internal operation, to which the spec gives no response (note 3). -/
def runsTo (i : Instr) (s t : State) : Prop := ∃ r, exec i s = .next { t with resp := r }

/-- `m'` is the buffer `m` with bit `k` of byte `i` set to `b` and no other bit changed, in canonical form (rule R66). -/
def setsBit (m m' : Memory) (i k : Nat) (b : Bool) : Prop :=
  m'.wf = true ∧ ∀ j n, (m'.read j).getLsbD n = if j = i ∧ n = k then b else (m.read j).getLsbD n

/-- An odd number of the bits is 1: their XOR, the parity of rule R92. -/
def oddOnes (bits : List Bool) : Bool := bits.count true % 2 == 1

/-- How far `flag` has advanced, for "monotonically non-regressive" (rule R28). -/
def flagRank : Flag → Nat
  | .inProgress => 0
  | .frameComplete => 1
  | .integrityFailed => 1
  | .passedPending => 1
  | .integrityPassed => 2

end Sys2Proof.Machine
end

