-- ==== Sys2Proof/Certificates/Slice0/Obligations.lean ====
section
/-! DEFINITION. The statements about the ETAG_V10 decode core. A next state is written out as the state before with the registers
the rule names updated, so that each statement carries its frame; `runsTo` says so for an internal operation, whose response
field the spec does not speak of. -/

section Slice0Statements

open Sys2Proof Sys2Proof.Machine

/-! ## Encoding and the step -/

/-- Encoder and decoder agree both ways: every event has a word, which the decoder reads back to the same event with every operand;
a word that decodes is the word of what it decodes to; and no other row has a word (rule R80 to rule R86, rule R96, and the opcode
table's empty encodings). -/
def Obligations.DecodeAndEncodeAgree : Prop :=
  (∀ i : Instr, i.isEvent = true → ∃ w, encode i = some w ∧ decode w = .ok i) ∧
  (∀ (w : EventWord) (i : Instr), decode w = .ok i → i.isEvent = true ∧ encode i = some w) ∧
  (∀ i : Instr, i.isEvent = false → encode i = none)

/-- The decoder accepts exactly the words that match one of the opcode table's eight event rows, each word matches at most one
of them, and the row gives the kind code of what is decoded (rule R80, rule R81, rule R90). -/
def Obligations.DecoderAcceptsExactlyTheTableRows : Prop :=
  (∀ w : EventWord, (∃ i, decode w = .ok i) ↔ ∃ r ∈ eventRows, r.matches w = true) ∧
  (∀ (w : EventWord) (r q : EventRow), r ∈ eventRows → q ∈ eventRows → r.matches w = true → q.matches w = true → r = q) ∧
  (∀ (w : EventWord) (i : Instr), decode w = .ok i → eventCode i = some (w.extractLsb' 69 3))

/-- The event words that rule R82 to rule R86 and rule R96 write out decode to the events they are written for. -/
def Obligations.SpecEventWordsDecode : Prop :=
  decode 0x000000000000000000#72 = .ok .nop ∧
  decode 0x2800000000000006E8#72 = .ok (.edge .a true 1768) ∧
  decode 0x400000000000000000#72 = .ok .tick ∧
  decode 0x64000000C800000064#72 = .ok (.read .em4100 1 100 200) ∧
  decode 0x800000000000000000#72 = .ok .shut ∧
  decode 0xA0000000000000000C#72 = .ok (.rdbuf 12) ∧
  decode 0xE00000000000000000#72 = .ok .reset

/-- A step takes the oldest pending event: decoded, it is run by `exec` from the state without it; a word that is no event is
rejected and changes nothing (rule R90 (a)); with no event pending the step is a NOP; and a word placed with `withFetchWord` is the
event of the very next step, what was pending staying pending. That events wait in a list and that an empty list is a NOP is the
model's choice (notes 1, 2 and 5). -/
def Obligations.StepRunsTheNextEvent : Prop :=
  (∀ (s : State) (w : EventWord) (rest : List EventWord) (i : Instr), s.events = w :: rest → decode w = .ok i →
    step s = exec i { s with events := rest }) ∧
  (∀ (s : State) (w : EventWord) (rest : List EventWord) (e : DecodeError), s.events = w :: rest → decode w = .error e →
    step s = .next { s with events := rest, resp := .reject }) ∧
  (∀ s : State, s.events = [] → step s = exec .nop s) ∧
  (∀ (i : Instr) (w : EventWord) (s : State), encode i = some w → step (s.withFetchWord 72 w.toNat) = exec i s)

/-! ## Events and operations without an effect, rejections, reset, the read port -/

/-- NOP changes no state and has no response (rule R96); an edge that is not accepted, the freeze, and a TICK while idle change
no register (rule R100, rule R104, rule R193). -/
def Obligations.OperationsWithoutEffect : Prop :=
  ∀ s : State,
    exec .nop s = .next { s with resp := .silent } ∧
    (s.sess = .idle → exec .tick s = .next { s with resp := .silent }) ∧
    runsTo .tickIdle s s ∧ runsTo .edgeIgnore s s ∧ runsTo .freeze s s

/-- The six rejection causes of rule R242: the response is REJECT and no register changes. -/
def Obligations.RejectionsChangeNothing : Prop :=
  (∀ (p : Protocol) (c : BitVec 2) (cd rt : U32) (s : State),
    s.sess ≠ .idle ∨ c = 0#2 ∨ c = 3#2 ∨ cd < params.gateMargin ∨ rt < cd →
      exec (.read p c cd rt) s = .next { s with resp := .reject }) ∧
  (∀ s : State, s.sess ≠ .idle → exec .shut s = .next { s with resp := .reject }) ∧
  (∀ (x : BitVec 69) (s : State), exec (.reserved6 x) s = .next { s with resp := .reject }) ∧
  (∀ s : State, exec .readReject s = .next { s with resp := .reject } ∧
    exec .shutReject s = .next { s with resp := .reject }) ∧
  (∀ (s : State) (w : EventWord) (rest : List EventWord), s.events = w :: rest →
    w.extractLsb' 69 3 = 6#3 ∨ (∀ r ∈ eventRows, r.matches w = false) →
      step s = .next { s with events := rest, resp := .reject })

/-- RESET is accepted in every state, busy or idle, has no response, and leaves every register at the value of rule R270. -/
def Obligations.ResetRestoresEveryRegister : Prop :=
  ∀ s : State, ∃ t, exec .reset s = .next t ∧ t.resp = .silent ∧
    t.lastEdge = 0 ∧ t.pulseCount = 0 ∧ t.armed = false ∧ t.protocol = .em4100 ∧ t.circuit = 0 ∧
    t.byteCtr = 0 ∧ t.bitCtr = 4 ∧ t.flag = .inProgress ∧
    t.ones = 0 ∧ t.rowPar = false ∧ t.failMap = 0 ∧ t.longSeen = false ∧ t.emHalf = false ∧
    t.tenZ = 0xFFFF ∧ t.pulse2 = false ∧ (∀ k, t.buf.read k = 0x00#8) ∧
    t.sess = .idle ∧ t.msCount = 0 ∧ t.cd = 0 ∧ t.rt = 0 ∧ t.outcome = .noTag ∧ t.done = false ∧
    t.antC = true ∧ t.antD = true

/-- RDBUF answers `buf[idx]` for an index up to 12 and 0x00 above, in every state, and writes no state (rule R67). -/
def Obligations.RdbufReadsOneByte : Prop :=
  ∀ (idx : BitVec 4) (s : State),
    (idx.toNat ≤ 12 → exec (.rdbuf idx) s = .next { s with resp := .byte (s.buf.read idx.toNat) }) ∧
    (12 < idx.toNat → exec (.rdbuf idx) s = .next { s with resp := .byte 0x00#8 })

/-! ## The edge classifier -/

/-- CLASS_EM and CLASS_FDX by their strict thresholds, SHORT tested first, for every parameter set; the two operations return the
class and change no register; and with the parameters `exec` runs with the classes at the bounds are those the rules list
(rule R102, rule R103). Those parameters are the nine defaults that rule R6 tabulates, GATE_MARGIN = 25 among them; that `exec`
runs with them is the model's choice (note 6), so no clause here is cited as a stated rule. -/
def Obligations.PulseClassesByThreshold : Prop :=
  (∀ (P : Config.Params) (dt : U32),
    (classEm P dt = .short ↔ P.emShortLo.toNat < dt.toNat ∧ dt.toNat < P.emShortHi.toNat) ∧
    (classEm P dt = .long ↔ ¬ (P.emShortLo.toNat < dt.toNat ∧ dt.toNat < P.emShortHi.toNat) ∧
      P.emLongLo.toNat < dt.toNat ∧ dt.toNat < P.emLongHi.toNat) ∧
    (classFdx P dt = .short ↔ P.fdxShortLo.toNat < dt.toNat ∧ dt.toNat < P.fdxShortHi.toNat) ∧
    (classFdx P dt = .long ↔ ¬ (P.fdxShortLo.toNat < dt.toNat ∧ dt.toNat < P.fdxShortHi.toNat) ∧
      P.fdxLongLo.toNat < dt.toNat ∧ dt.toNat < P.fdxLongHi.toNat)) ∧
  (∀ (dt : U32) (s : State),
    exec (.classEm dt) s = .next { s with resp := .pulse (classEm params dt) } ∧
    exec (.classFdx dt) s = .next { s with resp := .pulse (classFdx params dt) }) ∧
  (params.emShortLo.toNat = 170 ∧ params.emShortHi.toNat = 395 ∧ params.emLongLo.toNat = 395 ∧ params.emLongHi.toNat = 600 ∧
    params.fdxShortLo.toNat = 85 ∧ params.fdxShortHi.toNat = 170 ∧ params.fdxLongLo.toNat = 200 ∧
    params.fdxLongHi.toNat = 275 ∧ params.gateMargin.toNat = 25) ∧
  (∀ dt : U32,
    (dt = 171 ∨ dt = 256 ∨ dt = 394 → classEm params dt = .short) ∧
    (dt = 396 ∨ dt = 512 ∨ dt = 599 → classEm params dt = .long) ∧
    (dt = 170 ∨ dt = 395 ∨ 600 ≤ dt.toNat → classEm params dt = .invalid) ∧
    (dt = 86 ∨ dt = 128 ∨ dt = 169 → classFdx params dt = .short) ∧
    (dt = 201 ∨ dt = 256 ∨ dt = 274 → classFdx params dt = .long) ∧
    (dt = 85 ∨ (170 ≤ dt.toNat ∧ dt.toNat ≤ 200) ∨ dt = 275 → classFdx params dt = .invalid))

/-- CLASSIFY measures the pulse modulo 2^32 from the last accepted edge, with the thresholds of the selected protocol, and
writes `lastEdge` and `pulseCount` and nothing else (rule R101). -/
def Obligations.ClassifyCountsAndMeasures : Prop :=
  ∀ (now : U32) (s : State),
    exec (.classify now) s = .next { s with
      lastEdge := now
      pulseCount := s.pulseCount + 1
      resp := .pulse (if s.protocol = .em4100 then classEm params (now - s.lastEdge) else classFdx params (now - s.lastEdge)) }

/-- EDGE has no response. While disarmed or on the other line it changes nothing; after INTEGRITY_PASSED it writes `lastEdge`
and `pulseCount` only; else those two are written and the decoder takes the class of the pulse (rule R100, rule R104). -/
def Obligations.EdgeAcceptanceFreezeAndDispatch : Prop :=
  ∀ (line : Line) (level : Bool) (now : U32) (s : State),
    (s.armed = false ∨ line ≠ (if s.circuit = 1#2 then .a else .b) →
      exec (.edge line level now) s = .next { s with resp := .silent }) ∧
    (s.armed = true → line = (if s.circuit = 1#2 then .a else .b) → s.flag = .integrityPassed →
      exec (.edge line level now) s =
        .next { s with lastEdge := now, pulseCount := s.pulseCount + 1, resp := .silent }) ∧
    (s.armed = true → line = (if s.circuit = 1#2 then .a else .b) → s.flag ≠ .integrityPassed →
      exec (.edge line level now) s =
        exec (.dispatch
            (if s.protocol = .em4100 then classEm params (now - s.lastEdge) else classFdx params (now - s.lastEdge)) level)
          { s with lastEdge := now, pulseCount := s.pulseCount + 1 })

/-- DISPATCH runs the operation of the selected protocol's decoder for the pulse class; the FDX-B decoder does not take the
level (rule R105). -/
def Obligations.DispatchSelectsTheDecoder : Prop :=
  ∀ (level : Bool) (s : State),
    (s.protocol = .em4100 →
      exec (.dispatch .invalid level) s = exec .emInvalid s ∧
      exec (.dispatch .long level) s = exec (.emLong level) s ∧
      exec (.dispatch .short level) s = exec (.emShort level) s) ∧
    (s.protocol = .fdxb →
      exec (.dispatch .invalid level) s = exec .fdxInvalid s ∧
      exec (.dispatch .long level) s = exec .fdxLong s ∧
      exec (.dispatch .short level) s = exec .fdxShort s)

/-- In a state whose counters are in the ranges of rule R46, an EDGE and a DISPATCH of any operands answer a next state, which
differs from the state before in the registers rule R47 lets an EDGE write and nowhere else. -/
def Obligations.EdgeCompletesInReachableStates : Prop :=
  ∀ s : State, ControlInv s →
    (∀ (line : Line) (level : Bool) (now : U32), ∃ t, exec (.edge line level now) s = .next t ∧
      t = { s with
        lastEdge := t.lastEdge, pulseCount := t.pulseCount, byteCtr := t.byteCtr, bitCtr := t.bitCtr, flag := t.flag
        ones := t.ones, rowPar := t.rowPar, failMap := t.failMap, longSeen := t.longSeen, emHalf := t.emHalf
        tenZ := t.tenZ, pulse2 := t.pulse2, buf := t.buf, resp := t.resp }) ∧
    (∀ (cls : PulseClass) (level : Bool), ∃ t, exec (.dispatch cls level) s = .next t ∧
      t = { s with
        byteCtr := t.byteCtr, bitCtr := t.bitCtr, flag := t.flag
        ones := t.ones, rowPar := t.rowPar, failMap := t.failMap, longSeen := t.longSeen, emHalf := t.emHalf
        tenZ := t.tenZ, pulse2 := t.pulse2, buf := t.buf, resp := t.resp })

/-- The frame of the edge-delivery context, from any state with a canonical buffer: a next state of EDGE or DISPATCH keeps every session, antenna and
configuration register, keeps every buffer bit but the one at `(byteCtr, bitCtr)`, and keeps the private registers of the
protocol that is not selected (rule R47, rule R65). -/
def Obligations.EdgeKeepsTheSessionRegisters : Prop :=
  ∀ (i : Instr) (s t : State),
    ((∃ line level now, i = .edge line level now) ∨ (∃ cls level, i = .dispatch cls level)) → s.buf.wf = true →
    exec i s = .next t →
    (t.armed = s.armed ∧ t.protocol = s.protocol ∧ t.circuit = s.circuit ∧ t.sess = s.sess ∧ t.msCount = s.msCount ∧
      t.cd = s.cd ∧ t.rt = s.rt ∧ t.outcome = s.outcome ∧ t.done = s.done ∧ t.antC = s.antC ∧ t.antD = s.antD ∧
      t.events = s.events) ∧
    (∀ j n, ¬ (j = s.byteCtr.toNat ∧ n = s.bitCtr.toNat) → (t.buf.read j).getLsbD n = (s.buf.read j).getLsbD n) ∧
    (s.protocol = .em4100 → t.tenZ = s.tenZ ∧ t.pulse2 = s.pulse2) ∧
    (s.protocol = .fdxb →
      t.ones = s.ones ∧ t.rowPar = s.rowPar ∧ t.failMap = s.failMap ∧ t.longSeen = s.longSeen ∧ t.emHalf = s.emHalf)

/-- The frame of the decoders' operations: none writes the classifier's registers or a session, antenna or configuration
register; an EM4100 operation keeps the FDX-B registers and an FDX-B operation the EM4100 ones; and the only buffer bit that may
change is the one at `(byteCtr, bitCtr)`, and only in an operation that may store one (rule R47, rule R125, rule R156). -/
def Obligations.DecoderOperationsFrame : Prop :=
  ∀ (i : Instr) (s t : State), i.family = .emDecoder ∨ i.family = .fdxDecoder → s.buf.wf = true → exec i s = .next t →
    (t.lastEdge = s.lastEdge ∧ t.pulseCount = s.pulseCount ∧
      t.armed = s.armed ∧ t.protocol = s.protocol ∧ t.circuit = s.circuit ∧ t.sess = s.sess ∧ t.msCount = s.msCount ∧
      t.cd = s.cd ∧ t.rt = s.rt ∧ t.outcome = s.outcome ∧ t.done = s.done ∧ t.antC = s.antC ∧ t.antD = s.antD ∧
      t.events = s.events) ∧
    (i.family = .emDecoder → t.tenZ = s.tenZ ∧ t.pulse2 = s.pulse2) ∧
    (i.family = .fdxDecoder →
      t.ones = s.ones ∧ t.rowPar = s.rowPar ∧ t.failMap = s.failMap ∧ t.longSeen = s.longSeen ∧ t.emHalf = s.emHalf) ∧
    (∀ j n, ¬ (i.mayStoreBit = true ∧ j = s.byteCtr.toNat ∧ n = s.bitCtr.toNat) →
      (t.buf.read j).getLsbD n = (s.buf.read j).getLsbD n)

/-! ## The EM4100 decoder -/

/-- EM.INVALID and RESYNC_EM, FDX.INVALID and RESYNC_FDX write the registers of their rules and no other: `pulseCount`,
`lastEdge` and `buf` are kept (rule R121, rule R128, rule R151, rule R161). -/
def Obligations.ResyncsClearTheirOwnAssembly : Prop :=
  ∀ s : State,
    (∀ i : Instr, i = .emInvalid ∨ i = .resyncEm → runsTo i s { s with
      ones := 0, byteCtr := 0, bitCtr := 4, rowPar := false, failMap := 0, longSeen := false, emHalf := false
      flag := .inProgress }) ∧
    (∀ i : Instr, i = .fdxInvalid ∨ i = .resyncFdx → runsTo i s { s with
      byteCtr := 0, bitCtr := 10, tenZ := 0xFFFF, pulse2 := false, flag := .inProgress })

/-- EM.LONG sets `longSeen`, clears `emHalf` and then is EM_BIT of the level; EM.SHORT is ignored before the first LONG, marks the
first half of a pair, and at the second half is EM_BIT of the level. EM_BIT is the header count while `ones` is below 9, the store
at 9 (rule R122, rule R123). -/
def Obligations.EmLongAndShort : Prop :=
  ∀ (level : Bool) (s : State),
    (s.ones.toNat < 9 → runsTo (.emLong level) s { s with
      longSeen := true, emHalf := false, ones := if level then s.ones + 1 else 0 }) ∧
    (s.ones.toNat = 9 → s.byteCtr.toNat ≤ 12 → s.bitCtr.toNat ≤ 7 →
      ∃ t, exec (.emLong level) s = .next t ∧
        exec (.emBitStore level) { s with longSeen := true, emHalf := false } = .next t) ∧
    (s.longSeen = false → runsTo (.emShort level) s s) ∧
    (s.longSeen = true → s.emHalf = false → runsTo (.emShort level) s { s with emHalf := true }) ∧
    (s.longSeen = true → s.emHalf = true → s.ones.toNat < 9 → runsTo (.emShort level) s { s with
      emHalf := false, ones := if level then s.ones + 1 else 0 }) ∧
    (s.longSeen = true → s.emHalf = true → s.ones.toNat = 9 → s.byteCtr.toNat ≤ 12 → s.bitCtr.toNat ≤ 7 →
      ∃ t, exec (.emShort level) s = .next t ∧ exec (.emBitStore level) { s with emHalf := false } = .next t)

/-- EM_BIT in SEEK_HEADER counts consecutive ones, from 0 again at a 0 bit, never above 9, and stores nothing (rule R124). -/
def Obligations.EmBitSeekCountsOnes : Prop :=
  ∀ (b : Bool) (s : State), s.ones.toNat < 9 →
    ∃ n : BitVec 4, n.toNat = (if b then s.ones.toNat + 1 else 0) ∧ n.toNat ≤ 9 ∧ runsTo (.emBitSeek b) s { s with ones := n }

/-- EM_BIT in ASSEMBLE stores the bit at `(byteCtr, bitCtr)`; above position 0 it goes into `rowPar` and the position moves
down, at position 0 the row ends (rule R125). -/
def Obligations.EmBitStoreFillsTheRow : Prop :=
  ∀ (b : Bool) (s : State), s.buf.wf = true → s.byteCtr.toNat ≤ 12 → s.bitCtr.toNat ≤ 7 →
    ∃ m, setsBit s.buf m s.byteCtr.toNat s.bitCtr.toNat b ∧
      (1 ≤ s.bitCtr.toNat → runsTo (.emBitStore b) s { s with
        buf := m, rowPar := xor s.rowPar b, bitCtr := s.bitCtr - 1 }) ∧
      (s.bitCtr.toNat = 0 →
        ∃ t, exec (.emBitStore b) s = .next t ∧ exec (.emRowend b) { s with buf := m } = .next t)

/-- EM_ROWEND: in a data row, `failMap[byteCtr]` is set if the parity bit differs from `rowPar`, and the next row starts; after
row 10 the frame ends (rule R126). -/
def Obligations.EmRowendChecksTheRow : Prop :=
  ∀ (b : Bool) (s : State),
    (s.byteCtr.toNat ≤ 9 →
      ∃ f : BitVec 11,
        (∀ r, r < 11 →
          f.getLsbD r = (s.failMap.getLsbD r || (decide (r = s.byteCtr.toNat) && decide (s.rowPar ≠ b)))) ∧
        runsTo (.emRowend b) s { s with failMap := f, rowPar := false, byteCtr := s.byteCtr + 1, bitCtr := 4 }) ∧
    (s.byteCtr.toNat = 10 →
      ∃ t, exec (.emRowend b) s = .next t ∧ exec .emFrameend { s with rowPar := false } = .next t)

/-- EM_FRAMEEND: INTEGRITY_PASSED exactly when no row failed and the parity of each data column equals its bit of row 10; else
the resync of rule R128 (rule R127). -/
def Obligations.EmFrameendJudgesTheFrame : Prop :=
  ∀ s : State,
    ((∀ r, r < 10 → s.failMap.getLsbD r = false) ∧
      (∀ c, 1 ≤ c → c ≤ 4 →
        oddOnes ((List.range 10).map (fun r => (s.buf.read r).getLsbD c)) = (s.buf.read 10).getLsbD c) →
      runsTo .emFrameend s { s with failMap := 0, flag := .integrityPassed }) ∧
    (¬ ((∀ r, r < 10 → s.failMap.getLsbD r = false) ∧
      (∀ c, 1 ≤ c → c ≤ 4 →
        oddOnes ((List.range 10).map (fun r => (s.buf.read r).getLsbD c)) = (s.buf.read 10).getLsbD c)) →
      runsTo .emFrameend s { s with
        ones := 0, byteCtr := 0, bitCtr := 4, rowPar := false, failMap := 0, longSeen := false, emHalf := false
        flag := .inProgress })

/-! ## The FDX-B decoder -/

/-- FDX.LONG clears `pulse2` and is FDX_BIT of a 1. FDX.SHORT: a second half clears `pulse2` and emits nothing, whatever `bitCtr`
is; a first half where the marker must stand is the resync MarkerViolation; any other first half sets `pulse2` and is FDX_BIT of a
0 (rule R152, rule R153). -/
def Obligations.FdxLongAndShort : Prop :=
  ∀ s : State,
    (s.byteCtr.toNat ≤ 12 → s.bitCtr.toNat ≤ 8 ∨ s.bitCtr.toNat = 10 →
      ∃ t, exec .fdxLong s = .next t ∧ exec (.fdxBit true) { s with pulse2 := false } = .next t) ∧
    (s.pulse2 = true → runsTo .fdxShort s { s with pulse2 := false }) ∧
    (s.pulse2 = false → s.bitCtr.toNat = 8 → runsTo .fdxShort s { s with
      byteCtr := 0, bitCtr := 10, tenZ := 0xFFFF, pulse2 := false, flag := .inProgress }) ∧
    (s.pulse2 = false → s.byteCtr.toNat ≤ 12 → s.bitCtr.toNat < 8 ∨ s.bitCtr.toNat = 10 →
      ∃ t, exec .fdxShort s = .next t ∧ exec (.fdxBit false) { s with pulse2 := true } = .next t)

/-- FDX_BIT: the header test on the window as it is at entry, the window shifted up by the new bit, and then by `bitCtr` the
header search, a data bit or the marker (rule R154). -/
def Obligations.FdxBitShiftsAndDispatches : Prop :=
  ∀ (b : Bool) (s : State), s.byteCtr.toNat ≤ 12 → s.bitCtr.toNat ≤ 8 ∨ s.bitCtr.toNat = 10 →
    ∃ (w : BitVec 16) (t : State),
      (∀ k, k < 16 → w.getLsbD k = if k = 0 then b else s.tenZ.getLsbD (k - 1)) ∧
      exec (.fdxBit b) s = .next t ∧
      (s.bitCtr.toNat = 10 →
        exec (.fdxSeek (decide (∀ k : Fin 10, s.tenZ.getLsbD k = false) && b)) { s with tenZ := w } = .next t) ∧
      (s.bitCtr.toNat < 8 → exec (.fdxData b) { s with tenZ := w } = .next t) ∧
      (s.bitCtr.toNat = 8 → exec (.fdxMarker b) { s with tenZ := w } = .next t)

/-- FDX_SEEK starts ASSEMBLE at (0, 0) on a header and else changes nothing; FDX_MARKER takes the marker, always 1, of an octet up to
index 11 and goes to the next octet. In a reachable state that is not frozen the octet whose marker is awaited has index 11 at
most, so `byteCtr` stays within 12 (rule R155, rule R157). -/
def Obligations.FdxSeekAndMarker : Prop :=
  ∀ s : State,
    runsTo (.fdxSeek true) s { s with byteCtr := 0, bitCtr := 0 } ∧
    runsTo (.fdxSeek false) s s ∧
    (s.bitCtr.toNat = 8 → s.byteCtr.toNat ≤ 11 → ∃ n : BitVec 4, n.toNat = s.byteCtr.toNat + 1 ∧
      runsTo (.fdxMarker true) s { s with byteCtr := n, bitCtr := 0 }) ∧
    (ControlInv s → s.protocol = .fdxb → s.bitCtr.toNat = 8 → s.flag ≠ .integrityPassed → s.byteCtr.toNat ≤ 11)

/-- FDX_DATA stores the bit at `(byteCtr, bitCtr)` and moves up; at the eighth bit of octet 9 the CRC check runs, at that of
octet 12 the frame ends (rule R156). -/
def Obligations.FdxDataFillsTheOctet : Prop :=
  ∀ (b : Bool) (s : State), s.buf.wf = true → s.byteCtr.toNat ≤ 12 → s.bitCtr.toNat < 8 →
    ∃ m, setsBit s.buf m s.byteCtr.toNat s.bitCtr.toNat b ∧
      (s.bitCtr.toNat = 7 → s.byteCtr.toNat = 9 →
        ∃ t, exec (.fdxData b) s = .next t ∧ exec .fdxCrccheck { s with buf := m, bitCtr := 8 } = .next t) ∧
      (s.bitCtr.toNat = 7 → s.byteCtr.toNat = 12 →
        ∃ t, exec (.fdxData b) s = .next t ∧ exec .fdxFrameend { s with buf := m, bitCtr := 8 } = .next t) ∧
      (¬ (s.bitCtr.toNat = 7 ∧ (s.byteCtr.toNat = 9 ∨ s.byteCtr.toNat = 12)) →
        runsTo (.fdxData b) s { s with buf := m, bitCtr := s.bitCtr + 1 })

/-- FDX_CRCCHECK: PASSED_PENDING exactly when the CRC of octets 0 to 7 is the number with low byte octet 8 and high byte octet
9; else the resync of rule R161 (rule R158). -/
def Obligations.FdxCrccheckJudgesThePayload : Prop :=
  ∀ s : State,
    ((crc16 [s.buf.read 0, s.buf.read 1, s.buf.read 2, s.buf.read 3, s.buf.read 4, s.buf.read 5, s.buf.read 6,
        s.buf.read 7]).toNat = 256 * (s.buf.read 9).toNat + (s.buf.read 8).toNat →
      runsTo .fdxCrccheck s { s with flag := .passedPending }) ∧
    ((crc16 [s.buf.read 0, s.buf.read 1, s.buf.read 2, s.buf.read 3, s.buf.read 4, s.buf.read 5, s.buf.read 6,
        s.buf.read 7]).toNat ≠ 256 * (s.buf.read 9).toNat + (s.buf.read 8).toNat →
      runsTo .fdxCrccheck s { s with
        byteCtr := 0, bitCtr := 10, tenZ := 0xFFFF, pulse2 := false, flag := .inProgress })

/-- FDX_FRAMEEND writes INTEGRITY_PASSED and nothing else, and the step that reaches it starts with PASSED_PENDING
(rule R160). -/
def Obligations.FdxFrameendPasses : Prop :=
  (∀ s : State, runsTo .fdxFrameend s { s with flag := .integrityPassed }) ∧
  (∀ s : State, ControlInv s → s.protocol = .fdxb → s.byteCtr.toNat = 12 → s.bitCtr.toNat = 7 → s.flag = .passedPending)

/-- CRC16: 0 for the empty list; one more byte is XORed in and followed by eight shifts with polynomial 0x8408; no final XOR;
and the operation returns that value and changes no register (rule R159). -/
def Obligations.CrcIsTheBytewiseAlgorithm : Prop :=
  crc16 [] = 0x0000#16 ∧
  (∀ (bytes : List Byte) (b : Byte),
    crc16 (bytes ++ [b]) =
      (fun c : BitVec 16 => if c.getLsbD 0 then (c >>> 1) ^^^ 0x8408#16 else c >>> 1)^[8] (crc16 bytes ^^^ b.setWidth 16)) ∧
  (∀ (bytes : List Byte) (s : State), exec (.crc16 bytes) s = .next { s with resp := .bits16 (crc16 bytes) })

/-- From a buffer whose received CRC is right, inverting any one bit of octets 0 to 9 makes the check fail and resync, and
inverting any one bit of the extension octets is not noticed (rule R165, in part). -/
def Obligations.CrcDetectsEverySingleBitFlip : Prop :=
  ∀ (s : State) (m : Memory) (i k : Nat),
    (crc16 (memRead 0 8 s)).toNat = 256 * (s.buf.read 9).toNat + (s.buf.read 8).toNat → i < 13 → k < 8 →
    setsBit s.buf m i k (!(s.buf.read i).getLsbD k) →
    (i < 10 → runsTo .fdxCrccheck { s with buf := m } { s with
      buf := m, byteCtr := 0, bitCtr := 10, tenZ := 0xFFFF, pulse2 := false, flag := .inProgress }) ∧
    (10 ≤ i → runsTo .fdxCrccheck { s with buf := m } { s with buf := m, flag := .passedPending })

/-! ## States that no run reaches -/

/-- Where "no rule says what happens", the model faults by name: a decoder bit with `ones` above 9 or `bitCtr` 9 or above 10,
and a store outside the buffer. No run from reset reaches such a state; the fault is the model's choice (notes 7 and 8). -/
def Obligations.UnreachableCountersFault : Prop :=
  (∀ (level : Bool) (s : State), 9 < s.ones.toNat → exec (.emLong level) s = .fault .unusedCounterValue) ∧
  (∀ (level : Bool) (s : State), s.longSeen = true → s.emHalf = true → 9 < s.ones.toNat →
    exec (.emShort level) s = .fault .unusedCounterValue) ∧
  (∀ (b : Bool) (s : State), s.bitCtr.toNat = 9 ∨ 10 < s.bitCtr.toNat →
    exec (.fdxBit b) s = .fault .unusedCounterValue) ∧
  (∀ (b : Bool) (s : State), ¬ (s.byteCtr.toNat ≤ 12 ∧ s.bitCtr.toNat ≤ 7) →
    exec (.emBitStore b) s = .fault (.noBufferBit s.byteCtr.toNat s.bitCtr.toNat) ∧
    exec (.fdxData b) s = .fault (.noBufferBit s.byteCtr.toNat s.bitCtr.toNat))

/-! ## The antennas and SHUT -/

/-- ANT_ENABLE and ANT_DISABLE_ALL write the two shutdown lines and nothing else, level 1 being off; SHUT is rejected and changes
nothing while a read is in progress, else it turns both antennas off and answers OK (rule R180, rule R181, rule R183). -/
def Obligations.AntennaOperationsAndShut : Prop :=
  ∀ s : State,
    runsTo (.antEnable 1) s { s with antC := false, antD := true } ∧
    runsTo (.antEnable 2) s { s with antC := true, antD := false } ∧
    runsTo .antDisableAll s { s with antC := true, antD := true } ∧
    (s.sess ≠ .idle → exec .shut s = .next { s with resp := .reject }) ∧
    (s.sess = .idle → exec .shut s = .next { s with antC := true, antD := true, resp := .ok })

/-- After every step from a state that meets the invariant, at most one antenna runs, and it is exactly the one of the
session's circuit, none when idle (rule R184). -/
def Obligations.AntennasMutuallyExclusive : Prop :=
  ∀ s t : State, ControlInv s → step s = .next t →
    (t.antC = false → t.antD = true) ∧ (t.antD = false → t.antC = true) ∧
    (t.antC = false ∧ t.antD = true ↔ t.sess ≠ .idle ∧ t.circuit = 1#2) ∧
    (t.antC = true ∧ t.antD = false ↔ t.sess ≠ .idle ∧ t.circuit = 2#2) ∧
    (t.antC = true ∧ t.antD = true ↔ t.sess = .idle)

/-! ## The read session -/

/-- READ is accepted exactly when idle, with circuit 1 or 2, `checkDelay` at least the gate margin and `readTime` at least
`checkDelay`; accepted, it is READ_ACCEPT with the response OK, else REJECT with no register changed (rule R190). -/
def Obligations.ReadAcceptance : Prop :=
  ∀ (p : Protocol) (c : BitVec 2) (cd rt : U32) (s : State),
    (s.sess = .idle ∧ (c = 1#2 ∨ c = 2#2) ∧ params.gateMargin.toNat ≤ cd.toNat ∧ cd.toNat ≤ rt.toNat →
      ∃ (t : State) (r : Resp), exec (.readAccept p c cd rt) s = .next { t with resp := r } ∧
        exec (.read p c cd rt) s = .next { t with resp := .ok }) ∧
    (¬ (s.sess = .idle ∧ (c = 1#2 ∨ c = 2#2) ∧ params.gateMargin.toNat ≤ cd.toNat ∧ cd.toNat ≤ rt.toNat) →
      exec (.read p c cd rt) s = .next { s with resp := .reject })

/-- READ_ACCEPT and ARMCLEAR write the values of rule R191 and rule R192; a buffer with no entry reads 0x00 everywhere. -/
def Obligations.ReadAcceptArms : Prop :=
  (∀ (p : Protocol) (c : BitVec 2) (cd rt : U32) (s : State), c = 1#2 ∨ c = 2#2 →
    runsTo (.readAccept p c cd rt) s { s with
      circuit := c, antC := decide (c = 2#2), antD := decide (c = 1#2)
      lastEdge := 0, pulseCount := 0, protocol := p
      byteCtr := 0, bitCtr := if p = .em4100 then 4 else 10, flag := .inProgress, buf := []
      ones := 0, rowPar := false, failMap := 0, longSeen := false, emHalf := false, tenZ := 0xFFFF, pulse2 := false
      cd := cd, rt := rt, msCount := 0, outcome := .noTag, done := false, armed := true, sess := .check }) ∧
  (∀ (p : Protocol) (s : State),
    runsTo (.armclear p) s { s with
      lastEdge := 0, pulseCount := 0, protocol := p
      byteCtr := 0, bitCtr := if p = .em4100 then 4 else 10, flag := .inProgress, buf := []
      ones := 0, rowPar := false, failMap := 0, longSeen := false, emHalf := false, tenZ := 0xFFFF, pulse2 := false }) ∧
  (∀ k, Memory.read [] k = 0x00#8)

/-- TICK in CHECK: the millisecond is counted; before `cd` nothing more; at `cd` the gate needs more than `cd - GATE_MARGIN`
edges; passed, the flag is polled in the same step, before the deadline (rule R194). -/
def Obligations.TickCheckGates : Prop :=
  ∀ (i : Instr) (s : State), i = .tickCheck ∨ (i = .tick ∧ s.sess = .check) →
    params.gateMargin.toNat ≤ s.cd.toNat → s.msCount.toNat < s.rt.toNat →
    (s.msCount.toNat + 1 < s.cd.toNat → runsTo i s { s with msCount := s.msCount + 1 }) ∧
    (s.cd.toNat ≤ s.msCount.toNat + 1 → s.pulseCount.toNat ≤ s.cd.toNat - params.gateMargin.toNat →
      runsTo i s { s with
        msCount := s.msCount + 1, armed := false, antC := true, antD := true, outcome := .noTag, done := true, sess := .idle }) ∧
    (s.cd.toNat ≤ s.msCount.toNat + 1 → s.cd.toNat - params.gateMargin.toNat < s.pulseCount.toNat →
      (s.flag = .integrityPassed →
        runsTo i s { s with
          msCount := s.msCount + 1, armed := false, antC := true, antD := true, outcome := .tagDecoded, done := true
          sess := .idle }) ∧
      (s.flag ≠ .integrityPassed → s.rt.toNat ≤ s.msCount.toNat + 1 →
        runsTo i s { s with
          msCount := s.msCount + 1, armed := false, antC := true, antD := true, outcome := .noTag, done := true
          sess := .idle }) ∧
      (s.flag ≠ .integrityPassed → s.msCount.toNat + 1 < s.rt.toNat →
        runsTo i s { s with msCount := s.msCount + 1, sess := .wait }))

/-- TICK in WAIT: the millisecond is counted, then the flag is tested before the deadline, and only INTEGRITY_PASSED counts
(rule R195). -/
def Obligations.TickWaitPolls : Prop :=
  ∀ (i : Instr) (s : State), i = .tickWait ∨ (i = .tick ∧ s.sess = .wait) → s.msCount.toNat < s.rt.toNat →
    (s.flag = .integrityPassed →
      runsTo i s { s with
        msCount := s.msCount + 1, armed := false, antC := true, antD := true, outcome := .tagDecoded, done := true
        sess := .idle }) ∧
    (s.flag ≠ .integrityPassed → s.rt.toNat ≤ s.msCount.toNat + 1 →
      runsTo i s { s with
        msCount := s.msCount + 1, armed := false, antC := true, antD := true, outcome := .noTag, done := true, sess := .idle }) ∧
    (s.flag ≠ .integrityPassed → s.msCount.toNat + 1 < s.rt.toNat → runsTo i s { s with msCount := s.msCount + 1 })

/-- FINISH disarms, turns both antennas off, records the outcome and goes idle, and writes nothing else (rule R196). -/
def Obligations.FinishEndsTheSession : Prop :=
  ∀ (o : ReadOutcome) (s : State),
    runsTo (.finish o) s { s with armed := false, antC := true, antD := true, outcome := o, done := true, sess := .idle }

/-- The frame of the session's and the host's operations: a TICK in any form and FINISH write only `armed`, `sess`, `msCount`,
`outcome`, `done` and the two antenna lines; SHUT and the antenna operations only the two lines; RDBUF and the views nothing
(rule R47, rule R73). -/
def Obligations.SessionOperationsFrame : Prop :=
  ∀ (i : Instr) (s t : State), exec i s = .next t →
    (i = .tick ∨ i = .tickIdle ∨ i = .tickCheck ∨ i = .tickWait ∨ (∃ o, i = .finish o) →
      t = { s with
        armed := t.armed, sess := t.sess, msCount := t.msCount, outcome := t.outcome, done := t.done, antC := t.antC
        antD := t.antD, resp := t.resp }) ∧
    (i = .shut ∨ i.family = .antenna → t = { s with antC := t.antC, antD := t.antD, resp := t.resp }) ∧
    ((∃ k, i = .rdbuf k) ∨ i.family = .view → t = { s with resp := t.resp })

/-- The session reads of the decode state only `flag` and `pulseCount`: two states that agree on these two and on the session's
own registers agree on the session's registers, and on which of them is done, after the same TICK (rule R47, rule R195). -/
def Obligations.SessionReadsOnlyFlagAndPulseCount : Prop :=
  ∀ (i : Instr) (s u s' u' : State), i = .tick ∨ i = .tickCheck ∨ i = .tickWait →
    s.flag = u.flag → s.pulseCount = u.pulseCount → s.sess = u.sess → s.msCount = u.msCount → s.cd = u.cd → s.rt = u.rt →
    s.armed = u.armed → s.outcome = u.outcome → s.done = u.done → s.antC = u.antC → s.antD = u.antD →
    exec i s = .next s' → exec i u = .next u' →
    s'.sess = u'.sess ∧ s'.msCount = u'.msCount ∧ s'.armed = u'.armed ∧ s'.outcome = u'.outcome ∧ s'.done = u'.done ∧
    s'.antC = u'.antC ∧ s'.antD = u'.antD

/-- Of the events, only TICK and RESET end a session, and a TICK ends it with a result: TAG_DECODED only with a passed flag,
NO_TAG only at the failed gate or at the deadline without one; READ and SHUT are rejected while busy (rule R201). -/
def Obligations.OnlyTickOrResetEndsASession : Prop :=
  ∀ (i : Instr) (s t : State), i.isEvent = true → ControlInv s → s.sess ≠ .idle → exec i s = .next t →
    (t.sess = .idle → i = .tick ∨ i = .reset) ∧
    (i = .tick → t.sess = .idle → t.done = true ∧
      (t.outcome = .tagDecoded → s.flag = .integrityPassed) ∧
      (t.outcome = .noTag →
        (s.sess = .check ∧ t.msCount = s.cd ∧ s.pulseCount.toNat ≤ s.cd.toNat - params.gateMargin.toNat) ∨
        (t.msCount = s.rt ∧ s.flag ≠ .integrityPassed))) ∧
    (i = .shut ∨ (∃ p c cd rt, i = .read p c cd rt) → t = { s with resp := .reject })

/-- A running session ends by itself: whatever other events come, on or before the TICK that makes `msCount` equal to `rt` and
not before the one that makes it `cd`, it is idle with `done` set, every TICK until then counted (rule R200). -/
def Obligations.SessionEndsByReadTime : Prop :=
  ∀ (es : List Instr) (s : State), ControlInv s → s.sess ≠ .idle → (∀ i ∈ es, i.isEvent = true ∧ i ≠ .reset) →
    s.rt.toNat - s.msCount.toNat ≤ es.count .tick →
    ∃ n u, execAll (es.take n) s = .next u ∧ u.sess = .idle ∧ u.done = true ∧ u.armed = false ∧
      u.msCount.toNat = s.msCount.toNat + (es.take n).count .tick ∧ s.cd.toNat ≤ u.msCount.toNat ∧
      u.msCount.toNat ≤ s.rt.toNat

/-! ## The frame views -/

/-- The EM4100 views: five payload bytes made of the rows' bits 4 to 1, the first as the user byte, the other four as a
big-endian identifier, and the ten upper-case hexadecimal digits; no register changes (rule R220, rule R221, rule R222). -/
def Obligations.EmViewsReadTheRows : Prop :=
  ∀ s : State, ∃ p0 p1 p2 p3 p4 : Byte,
    (∀ k j, k < 5 → j < 8 → ([p0, p1, p2, p3, p4].getD k 0#8).getLsbD j =
      if j < 4 then (s.buf.read (2 * k + 1)).getLsbD (j + 1) else (s.buf.read (2 * k)).getLsbD (j - 3)) ∧
    exec .emPayload s = .next { s with resp := .bytes [p0, p1, p2, p3, p4] } ∧
    exec .emUser s = .next { s with resp := .byte p0 } ∧
    (∃ (v : BitVec 32) (hex : List Char),
      v.toNat = 2 ^ 24 * p1.toNat + 2 ^ 16 * p2.toNat + 2 ^ 8 * p3.toNat + p4.toNat ∧
      hex = ([p0, p1, p2, p3, p4].flatMap fun p =>
        ["0123456789ABCDEF".toList.getD (p.toNat / 16) ' ', "0123456789ABCDEF".toList.getD (p.toNat % 16) ' ']) ∧
      exec .emId s = .next { s with resp := .bits32 v } ∧
      exec .emHex s = .next { s with resp := .text hex } ∧
      processEm4100 (rawFrame s) = (p0, v, hex))

/-- The FDX-B views as numbers of the octets, and the string with three and ten upper-case hexadecimal digits; no register
changes (rule R223, rule R224, rule R225, rule R226). -/
def Obligations.FdxViewsReadTheOctets : Prop :=
  ∀ s : State,
    ∃ (animal : BitVec 38) (country : BitVec 10) (ext24 : BitVec 24) (crc : BitVec 16) (id : BitVec 64) (low : BitVec 32)
      (str : List Char),
      animal.toNat = (s.buf.read 0).toNat + 2 ^ 8 * (s.buf.read 1).toNat + 2 ^ 16 * (s.buf.read 2).toNat +
        2 ^ 24 * (s.buf.read 3).toNat + 2 ^ 32 * ((s.buf.read 4).toNat % 64) ∧
      country.toNat = 4 * (s.buf.read 5).toNat + (s.buf.read 4).toNat / 64 ∧
      ext24.toNat = (s.buf.read 10).toNat + 2 ^ 8 * (s.buf.read 11).toNat + 2 ^ 16 * (s.buf.read 12).toNat ∧
      crc.toNat = 2 ^ 8 * (s.buf.read 9).toNat + (s.buf.read 8).toNat ∧
      id.toNat = (s.buf.read 0).toNat + 2 ^ 8 * (s.buf.read 1).toNat + 2 ^ 16 * (s.buf.read 2).toNat +
        2 ^ 24 * (s.buf.read 3).toNat + 2 ^ 32 * (s.buf.read 4).toNat + 2 ^ 40 * (s.buf.read 5).toNat +
        2 ^ 48 * (s.buf.read 6).toNat + 2 ^ 56 * (s.buf.read 7).toNat ∧
      low.toNat = animal.toNat % 2 ^ 32 ∧
      exec .fdxAnimal s = .next { s with resp := .bits38 animal } ∧
      exec .fdxCountry s = .next { s with resp := .bits10 country } ∧
      exec .fdxExt s = .next { s with resp := .byte (s.buf.read 10) } ∧
      exec .fdxExt24 s = .next { s with resp := .bits24 ext24 } ∧
      exec .fdxCrcfield s = .next { s with resp := .bits16 crc } ∧
      exec .fdxId64 s = .next { s with resp := .bits64 id } ∧
      exec .fdxIdlow s = .next { s with resp := .bits32 low } ∧
      str = ((List.range 3).map fun k => "0123456789ABCDEF".toList.getD (country.toNat / 16 ^ (2 - k) % 16) ' ') ++ ['.'] ++
        ((List.range 10).map fun k => "0123456789ABCDEF".toList.getD (animal.toNat / 16 ^ (9 - k) % 16) ' ') ∧
      exec .fdxStr s = .next { s with resp := .text str } ∧
      processFdxb (rawFrame s) = (country.setWidth 16, s.buf.read 10, low, str)

/-! ## Invariants and totality -/

/-- The state after RESET meets the invariant. -/
def Obligations.ResetMeetsTheInvariant : Prop := Inv State.reset

/-- The state after RESET meets the control invariant and every step keeps it: the ranges and relations of rule R46, rule R129,
rule R162 and rule R184, at every step boundary. -/
def Obligations.StepKeepsTheControlInvariant : Prop :=
  ControlInv State.reset ∧ ∀ s t : State, ControlInv s → step s = .next t → ControlInv t

/-- Every step keeps the whole invariant, so what `failMap`, `rowPar` and `flag` say of the buffer stays true (rule R30,
rule R31, rule R127, rule R158). -/
def Obligations.StepKeepsTheInvariant : Prop :=
  ∀ s t : State, Inv s → step s = .next t → Inv t

/-- From a state that meets the control invariant, a step answers a next state, whatever event is pending: no fault and no
refusal (rule R89, rule R240). -/
def Obligations.NoStepStops : Prop :=
  ∀ s : State, ControlInv s → stepsOn s

/-- After every step from a state that meets the invariant, INTEGRITY_PASSED means a whole valid frame in the buffer: even row
and column parity for EM4100, the right CRC for FDX-B; and TAG_DECODED means INTEGRITY_PASSED (rule R127, rule R158,
rule R227). -/
def Obligations.PassedMeansValidFrame : Prop :=
  ∀ s t : State, Inv s → step s = .next t →
    (t.outcome = .tagDecoded → t.done = true ∧ t.flag = .integrityPassed) ∧
    (t.flag = .integrityPassed → t.protocol = .em4100 →
      (∀ r, r < 10 → oddOnes ((List.range 5).map (fun k => (t.buf.read r).getLsbD k)) = false) ∧
      (∀ c, 1 ≤ c → c ≤ 4 → oddOnes ((List.range 11).map (fun r => (t.buf.read r).getLsbD c)) = false)) ∧
    (t.flag = .integrityPassed → t.protocol = .fdxb →
      (crc16 (memRead 0 8 t)).toNat = 256 * (t.buf.read 9).toNat + (t.buf.read 8).toNat)

/-- Between arming and completion the flag goes back only by an edge that resyncs to header search, and a passed frame and its
protocol stay as they are until the next accepted READ or RESET (rule R28, rule R104, rule R227). -/
def Obligations.FlagRegressesOnlyByResync : Prop :=
  ∀ (i : Instr) (s t : State), i.isEvent = true → ControlInv s → exec i s = .next t →
    i ≠ .reset → ((∃ p c cd rt, i = .read p c cd rt) → t.resp = .reject) →
    (flagRank t.flag < flagRank s.flag →
      (∃ line level now, i = .edge line level now) ∧ s.flag = .passedPending ∧ t.flag = .inProgress ∧
      t.byteCtr = 0#4 ∧ t.bitCtr = 10#4 ∧ t.tenZ = 0xFFFF#16 ∧ t.pulse2 = false ∧ t.pulseCount = s.pulseCount + 1) ∧
    (s.flag = .integrityPassed → t.flag = .integrityPassed ∧ t.buf = s.buf ∧ t.protocol = s.protocol)

/-! ## Frames and line codes -/

/-- From the start of ASSEMBLE, 55 bits are accepted exactly when every row and every column has even parity; the stop bit takes
no part; accepted, they stand in rows 0 to 10 with the first bit of a row at position 4; not accepted, the decoder is back in
SEEK_HEADER (rule R61, rule R127, rule R130). -/
def Obligations.EmFrameAcceptedIffParityHolds : Prop :=
  ∀ (bits : List Bool) (s : State), bits.length = 55 → s.buf.wf = true →
    s.ones = 9#4 → s.byteCtr = 0#4 → s.bitCtr = 4#4 → s.rowPar = false → s.failMap = 0#11 → s.flag = .inProgress →
    ∃ t, emBits bits s = .ok t ∧
      (emBodyValid bits = true → t.flag = .integrityPassed ∧
        ∀ r j, r < 11 → j < 5 → (t.buf.read r).getLsbD (4 - j) = emBodyBit bits r j) ∧
      (emBodyValid bits = false →
        t.flag = .inProgress ∧ t.ones = 0#4 ∧ t.byteCtr = 0#4 ∧ t.bitCtr = 4#4 ∧ t.longSeen = false)

/-- From the start of ASSEMBLE, 55 bits that are valid but for one inverted bit: INTEGRITY_PASSED is not reached and the decoder is
back in SEEK_HEADER, unless the bit is the stop bit, which is not noticed. Before the last bit `failMap` marks the bit's row for a
data bit or a row-parity bit and no other row, and the column check marks bit 10 for a data bit or a column-parity bit only. Four
inverted data bits at the corners of a rectangle are not noticed (rule R132). -/
def Obligations.EmSingleBitFlipDetected : Prop :=
  ∀ (bits : List Bool) (s : State), bits.length = 55 → emBodyValid bits = true → s.buf.wf = true →
    s.ones = 9#4 → s.byteCtr = 0#4 → s.bitCtr = 4#4 → s.rowPar = false → s.failMap = 0#11 → s.flag = .inProgress →
    (∀ k, k < 54 → ∃ u t,
      emBits ((invertAt bits k).take 54) s = .ok u ∧
      (∀ r, r < 10 → u.failMap.getLsbD r = decide (r = k / 5)) ∧
      (failMapAfterColumns u).getLsbD 10 = decide (k % 5 ≠ 4) ∧
      emBits (invertAt bits k) s = .ok t ∧
      t.flag = .inProgress ∧ t.ones = 0#4 ∧ t.byteCtr = 0#4 ∧ t.bitCtr = 4#4 ∧ t.longSeen = false) ∧
    (∃ t, emBits (invertAt bits 54) s = .ok t ∧ t.flag = .integrityPassed) ∧
    (∀ r q j l, r < q → q < 10 → j < l → l < 4 →
      ∃ t, emBits (invertAt (invertAt (invertAt (invertAt bits (5 * r + j)) (5 * r + l)) (5 * q + j)) (5 * q + l)) s = .ok t ∧
        t.flag = .integrityPassed)

/-- The Manchester pulses of a whole EM4100 frame that follow a 0 bit, given to a cleared EM4100 decoder, end in
INTEGRITY_PASSED with the payload view equal to the frame's ten nibbles, whatever the stop bit (rule R92, rule R94, rule R227,
the round trip). -/
def Obligations.EmFrameRoundTrip : Prop :=
  ∀ (nibbles : List (BitVec 4)) (stop : Bool) (s : State), nibbles.length = 10 → s.buf.wf = true → s.protocol = .em4100 →
    s.ones = 0#4 → s.byteCtr = 0#4 → s.bitCtr = 4#4 → s.rowPar = false → s.failMap = 0#11 → s.longSeen = false →
    s.emHalf = false → s.flag = .inProgress →
    ∃ t, decodePulses (manchesterPulses false (emFrame nibbles stop)) s = .ok t ∧ t.flag = .integrityPassed ∧
      emPayload (rawFrame t) = (List.range 5).map (fun k => nibbles.getD (2 * k) 0#4 ++ nibbles.getD (2 * k + 1) 0#4) ∧
      (t.buf.read 10).getLsbD 0 = stop

/-- The biphase pulses of a whole FDX-B frame with a right CRC, at any levels, given to a cleared FDX-B decoder, end in
INTEGRITY_PASSED with the buffer equal to the frame's thirteen octets (rule R93, rule R95, rule R227, the round trip). -/
def Obligations.FdxFrameRoundTrip : Prop :=
  ∀ (octets : List Byte) (levels : Nat → Bool) (s : State), octets.length = 13 → s.buf.wf = true → s.protocol = .fdxb →
    (crc16 (octets.take 8)).toNat = 256 * (octets.getD 9 0#8).toNat + (octets.getD 8 0#8).toNat →
    s.byteCtr = 0#4 → s.bitCtr = 10#4 → s.tenZ = 0xFFFF#16 → s.pulse2 = false → s.flag = .inProgress →
    ∃ t, decodePulses ((biphasePulses (fdxFrame octets)).mapIdx (fun k cls => (cls, levels k))) s = .ok t ∧
      t.flag = .integrityPassed ∧ rawFrame t = octets

/-- One bit of each line code, at rest between two bits, is one decoded bit of its value (rule R94, rule R95; a bit that ends in
a CRC check, the end of the frame, or a missing marker is left to the rules of those). -/
def Obligations.LineCodesReadBack : Prop :=
  (∀ (prev b : Bool) (s : State), s.protocol = .em4100 → s.flag ≠ .integrityPassed → s.longSeen = true → s.emHalf = false →
    decodePulses (manchesterPulses prev [b]) s = emBit b s) ∧
  (∀ (b : Bool) (levels : Nat → Bool) (s : State), s.protocol = .fdxb → s.flag ≠ .integrityPassed → s.pulse2 = false →
    s.byteCtr.toNat ≤ 12 → s.bitCtr.toNat ≤ 8 ∨ s.bitCtr.toNat = 10 → (s.bitCtr.toNat = 8 → b = true) →
    (s.bitCtr.toNat = 7 → s.byteCtr.toNat ≠ 9 ∧ s.byteCtr.toNat ≠ 12) →
    decodePulses ((biphasePulses [b]).mapIdx (fun k cls => (cls, levels k))) s = fdxBit b s)

/-- A list of edges on the observed line, given by their intervals, runs as a trace exactly as the decoder takes their classes,
and counts them (rule R91, rule R100, rule R101). -/
def Obligations.EdgeTraceFeedsTheDecoder : Prop :=
  ∀ (ps : List (U32 × Bool)) (s t : State), ps ≠ [] → s.armed = true →
    decodePulses (ps.map fun p =>
      (if s.protocol = .em4100 then classEm params p.1 else classFdx params p.1, p.2)) s = .ok t →
    execAll (expandTrace s.lastEdge (ps.map fun p => .edgePlus (if s.circuit = 1#2 then .a else .b) p.1 p.2)) s =
      .next { t with
        lastEdge := ps.foldl (fun now p => now + p.1) s.lastEdge
        pulseCount := s.pulseCount + BitVec.ofNat 32 ps.length
        resp := .silent }

/-- Two traces that differ only in the levels of their edges give the same outcome as long as the protocol is FDX-B: from a state
under FDX-B (or disarmed) and with no READ for EM4100 in them, whatever other events they hold (rule R164). -/
def Obligations.FdxLevelIsUnused : Prop :=
  ∀ (es fs : List Instr) (s : State), s.protocol = .fdxb ∨ s.armed = false →
    (∀ i ∈ es, i.isEvent = true ∧ ∀ c cd rt, i ≠ .read .em4100 c cd rt) →
    List.Forall₂ (fun i j => i = j ∨ ∃ line level other now, i = .edge line level now ∧ j = .edge line other now) es fs →
    execAll es s = execAll fs s

/-- In a reachable state in ASSEMBLE the header test of FDX_BIT is false, whatever the bit (rule R163). -/
def Obligations.HeaderNeverSeenInAssemble : Prop :=
  ∀ s t : State, ControlInv s → step s = .next t → t.protocol = .fdxb → t.bitCtr.toNat ≤ 8 →
    (∃ k, k < 10 ∧ t.tenZ.getLsbD k = true) ∧ ∀ b, headerSeen b t = false

/-! ## The order within a clock cycle -/

/-- Events that fall in one clock cycle run in the order RESET, EDGE, TICK, host command, whichever of the four there are: each
present input is its one event at its place, each absent input is nothing there, and a cycle without an event is a NOP (rule R81,
rule R96, rule R245). How a cycle's events are collected is the model's choice (note 12). -/
def Obligations.CycleRunsInOrder : Prop :=
  (∀ (c : CycleInputs) (s : State) (resets edges ticks commands : List Instr),
    (c.reset = true → resets = [.reset]) → (c.reset = false → resets = []) →
    (∀ line level now, c.edge = some (line, level, now) → edges = [.edge line level now]) → (c.edge = none → edges = []) →
    (c.tick = true → ticks = [.tick]) → (c.tick = false → ticks = []) →
    (∀ p n cd rt, c.command = some (.read p n cd rt) → commands = [.read p n cd rt]) →
    (c.command = some .shut → commands = [.shut]) → (∀ k, c.command = some (.rdbuf k) → commands = [.rdbuf k]) →
    (c.command = none → commands = []) →
    (resets ++ edges ++ ticks ++ commands = [] → cycle c s = exec .nop s) ∧
    (resets ++ edges ++ ticks ++ commands ≠ [] → cycle c s = execAll (resets ++ edges ++ ticks ++ commands) s)) ∧
  (∀ (i : Instr) (is : List Instr) (s t : State), exec i s = .next t → execAll (i :: is) s = execAll is t) ∧
  (∀ s : State, execAll [] s = .next s)

/-! ## Operations outside the conditions under which an event runs them -/

/-- Run by `exec` alone in a state or with an operand for which no event runs it, an internal operation does its pseudocode as
written, sums modulo the register's width: the header count at 9 and above, FDX_MARKER with either bit, at any position, a row end
above row 10, and an antenna circuit that is neither 1 nor 2. All of it is the model's choice (notes 4 and 9). -/
def Obligations.OperationsOutsideTheirConditions : Prop :=
  ∀ s : State,
    (9 ≤ s.ones.toNat →
      runsTo (.emBitSeek true) s { s with ones := s.ones + 1 } ∧ runsTo (.emBitSeek false) s { s with ones := 0 }) ∧
    (∀ b : Bool, runsTo (.fdxMarker b) s { s with byteCtr := BitVec.ofNat 4 ((s.byteCtr.toNat + 1) % 16), bitCtr := 0 }) ∧
    (∀ b : Bool, 10 < s.byteCtr.toNat →
      ∃ t, exec (.emRowend b) s = .next t ∧ exec .emFrameend { s with rowPar := false } = .next t) ∧
    (∀ c : BitVec 2, c ≠ 1#2 → c ≠ 2#2 → runsTo (.antEnable c) s { s with antC := true, antD := false }) ∧
    (∀ (p : Protocol) (c : BitVec 2) (cd rt : U32), c ≠ 1#2 → c ≠ 2#2 →
      runsTo (.readAccept p c cd rt) s { s with
        circuit := c, antC := true, antD := false
        lastEdge := 0, pulseCount := 0, protocol := p
        byteCtr := 0, bitCtr := if p = .em4100 then 4 else 10, flag := .inProgress, buf := []
        ones := 0, rowPar := false, failMap := 0, longSeen := false, emHalf := false, tenZ := 0xFFFF, pulse2 := false
        cd := cd, rt := rt, msCount := 0, outcome := .noTag, done := false, armed := true, sess := .check })

end Slice0Statements
end

