-- ==== Sys2Proof/Laws/State.lean ====
section
/-! SUPPORT. What each state update writes and what it leaves, field by field, so that no later proof unfolds a record
update. -/

namespace Sys2Proof.Machine

@[simp] theorem respond_writes (r : Resp) (s : State) :
    (respond r s).resp = r := rfl

@[simp] theorem respond_keeps (r : Resp) (s : State) :
    (respond r s).lastEdge = s.lastEdge ∧
    (respond r s).pulseCount = s.pulseCount ∧
    (respond r s).armed = s.armed ∧
    (respond r s).protocol = s.protocol ∧
    (respond r s).circuit = s.circuit ∧
    (respond r s).byteCtr = s.byteCtr ∧
    (respond r s).bitCtr = s.bitCtr ∧
    (respond r s).flag = s.flag ∧
    (respond r s).ones = s.ones ∧
    (respond r s).rowPar = s.rowPar ∧
    (respond r s).failMap = s.failMap ∧
    (respond r s).longSeen = s.longSeen ∧
    (respond r s).emHalf = s.emHalf ∧
    (respond r s).tenZ = s.tenZ ∧
    (respond r s).pulse2 = s.pulse2 ∧
    (respond r s).buf = s.buf ∧
    (respond r s).sess = s.sess ∧
    (respond r s).msCount = s.msCount ∧
    (respond r s).cd = s.cd ∧
    (respond r s).rt = s.rt ∧
    (respond r s).outcome = s.outcome ∧
    (respond r s).done = s.done ∧
    (respond r s).antC = s.antC ∧
    (respond r s).antD = s.antD ∧
    (respond r s).events = s.events := by
  repeat' constructor

@[simp] theorem reject_writes (c : RejectCause) (s : State) :
    (reject c s).resp = .reject := rfl

@[simp] theorem reject_keeps (c : RejectCause) (s : State) :
    (reject c s).lastEdge = s.lastEdge ∧
    (reject c s).pulseCount = s.pulseCount ∧
    (reject c s).armed = s.armed ∧
    (reject c s).protocol = s.protocol ∧
    (reject c s).circuit = s.circuit ∧
    (reject c s).byteCtr = s.byteCtr ∧
    (reject c s).bitCtr = s.bitCtr ∧
    (reject c s).flag = s.flag ∧
    (reject c s).ones = s.ones ∧
    (reject c s).rowPar = s.rowPar ∧
    (reject c s).failMap = s.failMap ∧
    (reject c s).longSeen = s.longSeen ∧
    (reject c s).emHalf = s.emHalf ∧
    (reject c s).tenZ = s.tenZ ∧
    (reject c s).pulse2 = s.pulse2 ∧
    (reject c s).buf = s.buf ∧
    (reject c s).sess = s.sess ∧
    (reject c s).msCount = s.msCount ∧
    (reject c s).cd = s.cd ∧
    (reject c s).rt = s.rt ∧
    (reject c s).outcome = s.outcome ∧
    (reject c s).done = s.done ∧
    (reject c s).antC = s.antC ∧
    (reject c s).antD = s.antD ∧
    (reject c s).events = s.events := by
  repeat' constructor

@[simp] theorem countEdge_writes (now : U32) (s : State) :
    (countEdge now s).lastEdge = now ∧
    (countEdge now s).pulseCount = s.pulseCount + 1 := by
  repeat' constructor

@[simp] theorem countEdge_keeps (now : U32) (s : State) :
    (countEdge now s).armed = s.armed ∧
    (countEdge now s).protocol = s.protocol ∧
    (countEdge now s).circuit = s.circuit ∧
    (countEdge now s).byteCtr = s.byteCtr ∧
    (countEdge now s).bitCtr = s.bitCtr ∧
    (countEdge now s).flag = s.flag ∧
    (countEdge now s).ones = s.ones ∧
    (countEdge now s).rowPar = s.rowPar ∧
    (countEdge now s).failMap = s.failMap ∧
    (countEdge now s).longSeen = s.longSeen ∧
    (countEdge now s).emHalf = s.emHalf ∧
    (countEdge now s).tenZ = s.tenZ ∧
    (countEdge now s).pulse2 = s.pulse2 ∧
    (countEdge now s).buf = s.buf ∧
    (countEdge now s).sess = s.sess ∧
    (countEdge now s).msCount = s.msCount ∧
    (countEdge now s).cd = s.cd ∧
    (countEdge now s).rt = s.rt ∧
    (countEdge now s).outcome = s.outcome ∧
    (countEdge now s).done = s.done ∧
    (countEdge now s).antC = s.antC ∧
    (countEdge now s).antD = s.antD ∧
    (countEdge now s).events = s.events ∧
    (countEdge now s).resp = s.resp := by
  repeat' constructor

@[simp] theorem countMs_writes (s : State) :
    (countMs s).msCount = s.msCount + 1 := rfl

@[simp] theorem countMs_keeps (s : State) :
    (countMs s).lastEdge = s.lastEdge ∧
    (countMs s).pulseCount = s.pulseCount ∧
    (countMs s).armed = s.armed ∧
    (countMs s).protocol = s.protocol ∧
    (countMs s).circuit = s.circuit ∧
    (countMs s).byteCtr = s.byteCtr ∧
    (countMs s).bitCtr = s.bitCtr ∧
    (countMs s).flag = s.flag ∧
    (countMs s).ones = s.ones ∧
    (countMs s).rowPar = s.rowPar ∧
    (countMs s).failMap = s.failMap ∧
    (countMs s).longSeen = s.longSeen ∧
    (countMs s).emHalf = s.emHalf ∧
    (countMs s).tenZ = s.tenZ ∧
    (countMs s).pulse2 = s.pulse2 ∧
    (countMs s).buf = s.buf ∧
    (countMs s).sess = s.sess ∧
    (countMs s).cd = s.cd ∧
    (countMs s).rt = s.rt ∧
    (countMs s).outcome = s.outcome ∧
    (countMs s).done = s.done ∧
    (countMs s).antC = s.antC ∧
    (countMs s).antD = s.antD ∧
    (countMs s).events = s.events ∧
    (countMs s).resp = s.resp := by
  repeat' constructor

@[simp] theorem resyncEm_writes (s : State) :
    (resyncEm s).byteCtr = 0#4 ∧
    (resyncEm s).bitCtr = 4#4 ∧
    (resyncEm s).flag = .inProgress ∧
    (resyncEm s).ones = 0#4 ∧
    (resyncEm s).rowPar = false ∧
    (resyncEm s).failMap = 0#11 ∧
    (resyncEm s).longSeen = false ∧
    (resyncEm s).emHalf = false := by
  repeat' constructor

@[simp] theorem resyncEm_keeps (s : State) :
    (resyncEm s).lastEdge = s.lastEdge ∧
    (resyncEm s).pulseCount = s.pulseCount ∧
    (resyncEm s).armed = s.armed ∧
    (resyncEm s).protocol = s.protocol ∧
    (resyncEm s).circuit = s.circuit ∧
    (resyncEm s).tenZ = s.tenZ ∧
    (resyncEm s).pulse2 = s.pulse2 ∧
    (resyncEm s).buf = s.buf ∧
    (resyncEm s).sess = s.sess ∧
    (resyncEm s).msCount = s.msCount ∧
    (resyncEm s).cd = s.cd ∧
    (resyncEm s).rt = s.rt ∧
    (resyncEm s).outcome = s.outcome ∧
    (resyncEm s).done = s.done ∧
    (resyncEm s).antC = s.antC ∧
    (resyncEm s).antD = s.antD ∧
    (resyncEm s).events = s.events ∧
    (resyncEm s).resp = s.resp := by
  repeat' constructor

@[simp] theorem resyncFdx_writes (s : State) :
    (resyncFdx s).byteCtr = 0#4 ∧
    (resyncFdx s).bitCtr = 10#4 ∧
    (resyncFdx s).flag = .inProgress ∧
    (resyncFdx s).tenZ = 0xFFFF#16 ∧
    (resyncFdx s).pulse2 = false := by
  repeat' constructor

@[simp] theorem resyncFdx_keeps (s : State) :
    (resyncFdx s).lastEdge = s.lastEdge ∧
    (resyncFdx s).pulseCount = s.pulseCount ∧
    (resyncFdx s).armed = s.armed ∧
    (resyncFdx s).protocol = s.protocol ∧
    (resyncFdx s).circuit = s.circuit ∧
    (resyncFdx s).ones = s.ones ∧
    (resyncFdx s).rowPar = s.rowPar ∧
    (resyncFdx s).failMap = s.failMap ∧
    (resyncFdx s).longSeen = s.longSeen ∧
    (resyncFdx s).emHalf = s.emHalf ∧
    (resyncFdx s).buf = s.buf ∧
    (resyncFdx s).sess = s.sess ∧
    (resyncFdx s).msCount = s.msCount ∧
    (resyncFdx s).cd = s.cd ∧
    (resyncFdx s).rt = s.rt ∧
    (resyncFdx s).outcome = s.outcome ∧
    (resyncFdx s).done = s.done ∧
    (resyncFdx s).antC = s.antC ∧
    (resyncFdx s).antD = s.antD ∧
    (resyncFdx s).events = s.events ∧
    (resyncFdx s).resp = s.resp := by
  repeat' constructor

@[simp] theorem fdxMarker_writes (b : Bool) (s : State) :
    (fdxMarker b s).byteCtr = s.byteCtr + 1 ∧
    (fdxMarker b s).bitCtr = 0#4 := by
  repeat' constructor

@[simp] theorem fdxMarker_keeps (b : Bool) (s : State) :
    (fdxMarker b s).lastEdge = s.lastEdge ∧
    (fdxMarker b s).pulseCount = s.pulseCount ∧
    (fdxMarker b s).armed = s.armed ∧
    (fdxMarker b s).protocol = s.protocol ∧
    (fdxMarker b s).circuit = s.circuit ∧
    (fdxMarker b s).flag = s.flag ∧
    (fdxMarker b s).ones = s.ones ∧
    (fdxMarker b s).rowPar = s.rowPar ∧
    (fdxMarker b s).failMap = s.failMap ∧
    (fdxMarker b s).longSeen = s.longSeen ∧
    (fdxMarker b s).emHalf = s.emHalf ∧
    (fdxMarker b s).tenZ = s.tenZ ∧
    (fdxMarker b s).pulse2 = s.pulse2 ∧
    (fdxMarker b s).buf = s.buf ∧
    (fdxMarker b s).sess = s.sess ∧
    (fdxMarker b s).msCount = s.msCount ∧
    (fdxMarker b s).cd = s.cd ∧
    (fdxMarker b s).rt = s.rt ∧
    (fdxMarker b s).outcome = s.outcome ∧
    (fdxMarker b s).done = s.done ∧
    (fdxMarker b s).antC = s.antC ∧
    (fdxMarker b s).antD = s.antD ∧
    (fdxMarker b s).events = s.events ∧
    (fdxMarker b s).resp = s.resp := by
  repeat' constructor

@[simp] theorem fdxFrameend_writes (s : State) :
    (fdxFrameend s).flag = .integrityPassed := rfl

@[simp] theorem fdxFrameend_keeps (s : State) :
    (fdxFrameend s).lastEdge = s.lastEdge ∧
    (fdxFrameend s).pulseCount = s.pulseCount ∧
    (fdxFrameend s).armed = s.armed ∧
    (fdxFrameend s).protocol = s.protocol ∧
    (fdxFrameend s).circuit = s.circuit ∧
    (fdxFrameend s).byteCtr = s.byteCtr ∧
    (fdxFrameend s).bitCtr = s.bitCtr ∧
    (fdxFrameend s).ones = s.ones ∧
    (fdxFrameend s).rowPar = s.rowPar ∧
    (fdxFrameend s).failMap = s.failMap ∧
    (fdxFrameend s).longSeen = s.longSeen ∧
    (fdxFrameend s).emHalf = s.emHalf ∧
    (fdxFrameend s).tenZ = s.tenZ ∧
    (fdxFrameend s).pulse2 = s.pulse2 ∧
    (fdxFrameend s).buf = s.buf ∧
    (fdxFrameend s).sess = s.sess ∧
    (fdxFrameend s).msCount = s.msCount ∧
    (fdxFrameend s).cd = s.cd ∧
    (fdxFrameend s).rt = s.rt ∧
    (fdxFrameend s).outcome = s.outcome ∧
    (fdxFrameend s).done = s.done ∧
    (fdxFrameend s).antC = s.antC ∧
    (fdxFrameend s).antD = s.antD ∧
    (fdxFrameend s).events = s.events ∧
    (fdxFrameend s).resp = s.resp := by
  repeat' constructor

@[simp] theorem antDisableAll_writes (s : State) :
    (antDisableAll s).antC = true ∧
    (antDisableAll s).antD = true := by
  repeat' constructor

@[simp] theorem antDisableAll_keeps (s : State) :
    (antDisableAll s).lastEdge = s.lastEdge ∧
    (antDisableAll s).pulseCount = s.pulseCount ∧
    (antDisableAll s).armed = s.armed ∧
    (antDisableAll s).protocol = s.protocol ∧
    (antDisableAll s).circuit = s.circuit ∧
    (antDisableAll s).byteCtr = s.byteCtr ∧
    (antDisableAll s).bitCtr = s.bitCtr ∧
    (antDisableAll s).flag = s.flag ∧
    (antDisableAll s).ones = s.ones ∧
    (antDisableAll s).rowPar = s.rowPar ∧
    (antDisableAll s).failMap = s.failMap ∧
    (antDisableAll s).longSeen = s.longSeen ∧
    (antDisableAll s).emHalf = s.emHalf ∧
    (antDisableAll s).tenZ = s.tenZ ∧
    (antDisableAll s).pulse2 = s.pulse2 ∧
    (antDisableAll s).buf = s.buf ∧
    (antDisableAll s).sess = s.sess ∧
    (antDisableAll s).msCount = s.msCount ∧
    (antDisableAll s).cd = s.cd ∧
    (antDisableAll s).rt = s.rt ∧
    (antDisableAll s).outcome = s.outcome ∧
    (antDisableAll s).done = s.done ∧
    (antDisableAll s).events = s.events ∧
    (antDisableAll s).resp = s.resp := by
  repeat' constructor

@[simp] theorem finish_writes (o : ReadOutcome) (s : State) :
    (finish o s).armed = false ∧
    (finish o s).sess = .idle ∧
    (finish o s).outcome = o ∧
    (finish o s).done = true ∧
    (finish o s).antC = true ∧
    (finish o s).antD = true := by
  repeat' constructor

@[simp] theorem finish_keeps (o : ReadOutcome) (s : State) :
    (finish o s).lastEdge = s.lastEdge ∧
    (finish o s).pulseCount = s.pulseCount ∧
    (finish o s).protocol = s.protocol ∧
    (finish o s).circuit = s.circuit ∧
    (finish o s).byteCtr = s.byteCtr ∧
    (finish o s).bitCtr = s.bitCtr ∧
    (finish o s).flag = s.flag ∧
    (finish o s).ones = s.ones ∧
    (finish o s).rowPar = s.rowPar ∧
    (finish o s).failMap = s.failMap ∧
    (finish o s).longSeen = s.longSeen ∧
    (finish o s).emHalf = s.emHalf ∧
    (finish o s).tenZ = s.tenZ ∧
    (finish o s).pulse2 = s.pulse2 ∧
    (finish o s).buf = s.buf ∧
    (finish o s).msCount = s.msCount ∧
    (finish o s).cd = s.cd ∧
    (finish o s).rt = s.rt ∧
    (finish o s).events = s.events ∧
    (finish o s).resp = s.resp := by
  repeat' constructor

@[simp] theorem resetState_writes (s : State) :
    (resetState s).lastEdge = 0#32 ∧
    (resetState s).pulseCount = 0#32 ∧
    (resetState s).armed = false ∧
    (resetState s).protocol = .em4100 ∧
    (resetState s).circuit = 0#2 ∧
    (resetState s).byteCtr = 0#4 ∧
    (resetState s).bitCtr = 4#4 ∧
    (resetState s).flag = .inProgress ∧
    (resetState s).ones = 0#4 ∧
    (resetState s).rowPar = false ∧
    (resetState s).failMap = 0#11 ∧
    (resetState s).longSeen = false ∧
    (resetState s).emHalf = false ∧
    (resetState s).tenZ = 0xFFFF#16 ∧
    (resetState s).pulse2 = false ∧
    (resetState s).buf = [] ∧
    (resetState s).sess = .idle ∧
    (resetState s).msCount = 0#32 ∧
    (resetState s).cd = 0#32 ∧
    (resetState s).rt = 0#32 ∧
    (resetState s).outcome = .noTag ∧
    (resetState s).done = false ∧
    (resetState s).antC = true ∧
    (resetState s).antD = true := by
  repeat' constructor

@[simp] theorem resetState_keeps (s : State) :
    (resetState s).events = s.events ∧
    (resetState s).resp = s.resp := by
  repeat' constructor

@[simp] theorem armclear_writes (p : Protocol) (s : State) :
    (armclear p s).lastEdge = 0#32 ∧
    (armclear p s).pulseCount = 0#32 ∧
    (armclear p s).protocol = p ∧
    (armclear p s).byteCtr = 0#4 ∧
    (armclear p s).flag = .inProgress ∧
    (armclear p s).ones = 0#4 ∧
    (armclear p s).rowPar = false ∧
    (armclear p s).failMap = 0#11 ∧
    (armclear p s).longSeen = false ∧
    (armclear p s).emHalf = false ∧
    (armclear p s).tenZ = 0xFFFF#16 ∧
    (armclear p s).pulse2 = false ∧
    (armclear p s).buf = [] := by
  repeat' constructor

@[simp] theorem armclear_keeps (p : Protocol) (s : State) :
    (armclear p s).armed = s.armed ∧
    (armclear p s).circuit = s.circuit ∧
    (armclear p s).sess = s.sess ∧
    (armclear p s).msCount = s.msCount ∧
    (armclear p s).cd = s.cd ∧
    (armclear p s).rt = s.rt ∧
    (armclear p s).outcome = s.outcome ∧
    (armclear p s).done = s.done ∧
    (armclear p s).antC = s.antC ∧
    (armclear p s).antD = s.antD ∧
    (armclear p s).events = s.events ∧
    (armclear p s).resp = s.resp := by
  repeat' constructor

@[simp] theorem armclear_bitCtr_em (s : State) : (armclear .em4100 s).bitCtr = 4#4 := rfl

@[simp] theorem armclear_bitCtr_fdx (s : State) : (armclear .fdxb s).bitCtr = 10#4 := rfl

/-- ANT_ENABLE as one record, whichever circuit it takes (rule R180). -/
theorem antEnable_eq (c : BitVec 2) (s : State) :
    antEnable c s = { s with antC := decide (c ≠ 1#2), antD := decide (c = 1#2) } := by
  unfold antEnable
  split <;> simp [*]

/-- READ_ACCEPT as one record (rule R191, rule R192). -/
theorem readAccept_eq (p : Protocol) (c : BitVec 2) (cd rt : U32) (s : State) :
    readAccept p c cd rt s =
      { armclear p s with
        circuit := c, antC := decide (c ≠ 1#2), antD := decide (c = 1#2), cd := cd, rt := rt, msCount := 0,
        outcome := .noTag, done := false, armed := true, sess := .check } := by
  simp only [readAccept, antEnable_eq]
  rfl

/-- A resync is one of the two, by its cause (rule R241). -/
@[simp] theorem resync_em (s : State) :
    resync .invalidPulseEm s = resyncEm s ∧ resync .parityFail s = resyncEm s := ⟨rfl, rfl⟩

@[simp] theorem resync_fdx (s : State) :
    resync .invalidPulseFdx s = resyncFdx s ∧ resync .markerViolation s = resyncFdx s ∧
    resync .crcFail s = resyncFdx s := ⟨rfl, rfl, rfl⟩

end Sys2Proof.Machine
end

