-- ==== Sys2Proof/Laws/Memory.lean ====
section
/-! SUPPORT. The frame buffer: reading after writing, and the canonical form that every operation keeps. -/

namespace Sys2Proof.Machine

@[simp] theorem Memory.read_nil (k : Nat) : Memory.read [] k = 0#8 := rfl

@[simp] theorem Memory.wf_nil : Memory.wf [] = true := rfl

@[simp] theorem Memory.above_nil (i : Nat) : Memory.above i [] = true := rfl

@[simp] theorem Memory.above_cons (i j : Nat) (b : Byte) (m : Memory) :
    Memory.above i ((j, b) :: m) = true ↔ i < j ∧ Memory.above i m = true := by
  simp [Memory.above]

/-- A lower bound may be lowered. -/
theorem Memory.above_of_le (m : Memory) (i k : Nat) (hik : k ≤ i) (h : Memory.above i m = true) :
    Memory.above k m = true := by
  induction m with
  | nil => rfl
  | cons c m ih =>
    obtain ⟨j, b⟩ := c
    simp only [Memory.above_cons] at h ⊢
    exact ⟨by omega, ih h.2⟩

/-- An index below every listed one reads as an unlisted byte. -/
theorem Memory.read_of_above (m : Memory) (k : Nat) (h : Memory.above k m = true) : m.read k = Memory.unlisted := by
  induction m with
  | nil => rfl
  | cons c m ih =>
    obtain ⟨i, b⟩ := c
    simp only [Memory.above_cons] at h
    have hne : i ≠ k := by omega
    simp [Memory.read, hne, ih h.2]

/-- `Memory.wf` of a nonempty buffer, as propositions. -/
theorem Memory.wf_cons (i : Nat) (b : Byte) (m : Memory) :
    Memory.wf ((i, b) :: m) = true ↔
      i < 13 ∧ b ≠ Memory.unlisted ∧ Memory.above i m = true ∧ m.wf = true := by
  simp [Memory.wf, and_assoc]

/-- Writing leaves every other index alone. -/
theorem Memory.read_write_ne (m : Memory) (k j : Nat) (v : Byte) (h : j ≠ k) :
    (m.write k v).read j = m.read j := by
  induction m with
  | nil =>
    simp only [Memory.write, Memory.entry]
    split
    · rfl
    · simp [Memory.read, h.symm, Memory.unlisted]
  | cons c m ih =>
    obtain ⟨i, b⟩ := c
    simp only [Memory.write, Memory.entry]
    split
    · split
      · rfl
      · simp [Memory.read, h.symm]
    · split
      · rename_i hki
        subst hki
        split <;> simp [Memory.read, h.symm]
      · simp [Memory.read, ih]

/-- In a canonical buffer the byte written is the byte read. -/
theorem Memory.read_write_same (m : Memory) (k : Nat) (v : Byte) (h : m.wf = true) :
    (m.write k v).read k = v := by
  induction m with
  | nil =>
    simp only [Memory.write, Memory.entry]
    split
    · simp_all [Memory.unlisted]
    · simp [Memory.read]
  | cons c m ih =>
    obtain ⟨i, b⟩ := c
    obtain ⟨-, -, hall, hm⟩ := (Memory.wf_cons i b m).1 h
    have below : k ≤ i → Memory.read m k = Memory.unlisted := fun hk =>
      Memory.read_of_above m k (Memory.above_of_le m i k hk hall)
    simp only [Memory.write, Memory.entry]
    split
    · rename_i hlt
      have hne : i ≠ k := by omega
      split
      · rename_i hv
        rw [hv, Memory.read, if_neg hne, below (by omega)]
      · simp [Memory.read]
    · split
      · rename_i hki
        split
        · rename_i hv
          rw [hv, below (by omega)]
        · simp [Memory.read]
      · have hne : i ≠ k := by omega
        simp [Memory.read, hne, ih hm]

/-- A lower bound on a buffer's indices survives a write above the bound. -/
theorem Memory.above_write (m : Memory) (i k : Nat) (v : Byte) (hk : i < k) (h : Memory.above i m = true) :
    Memory.above i (m.write k v) = true := by
  induction m with
  | nil => simp only [Memory.write, Memory.entry]; split <;> simp [hk]
  | cons c m ih =>
    obtain ⟨j, b⟩ := c
    have h' := (Memory.above_cons i j b m).1 h
    simp only [Memory.write, Memory.entry]
    split
    · split
      · exact h
      · exact (Memory.above_cons _ _ _ _).2 ⟨hk, h⟩
    · split
      · split
        · exact h'.2
        · exact (Memory.above_cons _ _ _ _).2 ⟨hk, h'.2⟩
      · exact (Memory.above_cons _ _ _ _).2 ⟨h'.1, ih h'.2⟩

/-- A write inside the buffer keeps the canonical form. -/
theorem Memory.wf_write (m : Memory) (k : Nat) (v : Byte) (hk : k < 13) (h : m.wf = true) :
    (m.write k v).wf = true := by
  induction m with
  | nil =>
    simp only [Memory.write, Memory.entry]
    split
    · rfl
    · simp_all [Memory.wf]
  | cons c m ih =>
    obtain ⟨i, b⟩ := c
    obtain ⟨hi, hb, hall, hm⟩ := (Memory.wf_cons i b m).1 h
    simp only [Memory.write, Memory.entry]
    split
    · rename_i hlt
      split
      · exact h
      · exact (Memory.wf_cons _ _ _).2
          ⟨hk, ‹_›, (Memory.above_cons _ _ _ _).2 ⟨hlt, Memory.above_of_le m i k (by omega) hall⟩, h⟩
    · split
      · rename_i hki
        split
        · exact hm
        · exact (Memory.wf_cons _ _ _).2 ⟨hk, ‹_›, Memory.above_of_le m i k (by omega) hall, hm⟩
      · exact (Memory.wf_cons _ _ _).2 ⟨hi, hb, Memory.above_write m i k v (by omega) hall, ih hm⟩

/-- The bits of a byte with one bit set: that bit is `b`, the others are unchanged (rule R66). -/
theorem withBit_getLsbD {w : Nat} (v : BitVec w) (k j : Nat) (b : Bool) (hk : k < w) :
    (withBit v k b).getLsbD j = if j = k then b else v.getLsbD j := by
  by_cases hj : j < w
  · by_cases hjk : j = k
    · subst hjk
      cases b <;> simp [withBit, bitAs, hj, BitVec.getElem_one]
    · rcases Nat.lt_or_gt_of_ne hjk with h | h
      · cases b <;> simp [withBit, bitAs, hj, hjk, h, BitVec.getElem_one]
      · have h1 : ¬ j < k := by omega
        have h2 : j - k ≠ 0 := by omega
        cases b <;> simp [withBit, bitAs, hj, hjk, h1, h2, BitVec.getElem_one]
  · have hjk : j ≠ k := by omega
    simp [hjk, BitVec.getLsbD_of_ge _ _ (Nat.le_of_not_lt hj)]

/-- Everything `MemWriteBit` can do: fault outside the buffer, or write one bit and nothing else (rule R66). -/
theorem memWriteBit_cases (i k : Nat) (b : Bool) (s : State) (r : Except Fault State) (h : memWriteBit i k b s = r) :
    (i ≤ 12 ∧ k ≤ 7 ∧ r = .ok { s with buf := s.buf.write i (withBit (s.buf.read i) k b) }) ∨
    (¬ (i ≤ 12 ∧ k ≤ 7) ∧ r = .error (.noBufferBit i k)) := by
  unfold memWriteBit at h
  split at h
  · exact .inl ⟨by omega, by omega, h.symm⟩
  · exact .inr ⟨‹_›, h.symm⟩

/-- The bits of the buffer after a bit write in a canonical buffer. -/
theorem readBit_after_write (m : Memory) (i k a j : Nat) (b : Bool) (hm : m.wf = true) (hk : k < 8) :
    ((m.write i (withBit (m.read i) k b)).read a).getLsbD j =
      if a = i ∧ j = k then b else (m.read a).getLsbD j := by
  by_cases ha : a = i
  · subst ha
    rw [Memory.read_write_same m a _ hm, withBit_getLsbD _ _ _ _ hk]
    by_cases hj : j = k <;> simp [hj]
  · rw [Memory.read_write_ne m i a _ ha]
    simp [ha]

end Sys2Proof.Machine
end

