-- ==== Sys2Proof/Laws/Ops.lean ====
section
/-! SUPPORT. One lemma per shared operation that says once everything it can do; later proofs cite it and do not unfold the
operation. -/

namespace Sys2Proof.Machine

/-- The pending trace after an event is taken, and the event. -/
theorem takeEvent_cases (s : State) :
    (s.events = [] ∧ takeEvent s = none) ∨
    (∃ w rest, s.events = w :: rest ∧ takeEvent s = some (w, { s with events := rest })) := by
  unfold takeEvent
  cases h : s.events with
  | nil => exact .inl ⟨rfl, rfl⟩
  | cons w rest => exact .inr ⟨w, rest, rfl, rfl⟩

/-- Everything a step can be: a NOP without an event, a decoded event, or a rejected word (rule R90, rule R96). -/
theorem step_cases (s : State) :
    (s.events = [] ∧ step s = exec .nop s) ∨
    (∃ w rest i, s.events = w :: rest ∧ decode w = .ok i ∧ step s = exec i { s with events := rest }) ∨
    (∃ w rest e, s.events = w :: rest ∧ decode w = .error e ∧
      step s = .next { s with events := rest, resp := .reject }) := by
  unfold step
  rcases takeEvent_cases s with ⟨h, ht⟩ | ⟨w, rest, h, ht⟩
  · exact .inl ⟨h, by rw [ht]⟩
  · rw [ht]
    cases hd : decode w with
    | ok i => exact .inr (.inl ⟨w, rest, i, h, hd, by simp only [hd]⟩)
    | error e => exact .inr (.inr ⟨w, rest, e, h, hd, by simp only [hd]; rfl⟩)

/-- A word the decoder accepts is one of the eight events. -/
theorem decode_isEvent (w : EventWord) (i : Instr) (h : decode w = .ok i) :
    i = .nop ∨ (∃ l v n, i = .edge l v n) ∨ i = .tick ∨ (∃ p c cd rt, i = .read p c cd rt) ∨ i = .shut ∨
    (∃ k, i = .rdbuf k) ∨ (∃ p, i = .reserved6 p) ∨ i = .reset := by
  unfold decode unlessReserved at h
  repeat' split at h
  all_goals first
    | (cases h; simp)
    | cases h

/-- `answer` passes a result on and keeps a fault. -/
theorem answer_cases (r : Resp) (x : Except Fault State) (o : Host.Outcome State Fault Refusal) (h : answer r x = o) :
    (∃ t, x = .ok t ∧ o = .next (respond r t)) ∨ (∃ f, x = .error f ∧ o = .fault f) := by
  cases x with
  | ok t => exact .inl ⟨t, rfl, h.symm⟩
  | error f => exact .inr ⟨f, rfl, h.symm⟩

/-- An operation answers a next state exactly when its result is one. -/
theorem answer_next (r : Resp) (x : Except Fault State) (t : State) :
    answer r x = .next t ↔ ∃ t', x = .ok t' ∧ t = respond r t' := by
  cases x with
  | ok s =>
    simp only [answer, Host.Outcome.next.injEq, Except.ok.injEq, exists_eq_left']
    exact eq_comm
  | error f => simp [answer]

/-- EM_BIT is one of its two phases, or a fault above nine (rule R129). -/
theorem emBit_cases (b : Bool) (s : State) :
    (s.ones < 9#4 ∧ emBit b s = .ok (emBitSeek b s)) ∨ (s.ones = 9#4 ∧ emBit b s = emBitStore b s) ∨
    (9#4 < s.ones ∧ emBit b s = .error .unusedCounterValue) := by
  unfold emBit
  split
  · exact .inl ⟨‹_›, rfl⟩
  · split
    · exact .inr (.inl ⟨‹_›, rfl⟩)
    · exact .inr (.inr ⟨by bv_omega, rfl⟩)

/-- EM_BIT in ASSEMBLE: a fault outside the buffer; else the bit is stored, and the position moves on or the row ends
(rule R125). -/
theorem emBitStore_cases (b : Bool) (s : State) :
    (¬ (s.byteCtr.toNat ≤ 12 ∧ s.bitCtr.toNat ≤ 7) ∧
      emBitStore b s = .error (.noBufferBit s.byteCtr.toNat s.bitCtr.toNat)) ∨
    (∃ m, m = s.buf.write s.byteCtr.toNat (withBit (s.buf.read s.byteCtr.toNat) s.bitCtr.toNat b) ∧
      s.byteCtr.toNat ≤ 12 ∧ s.bitCtr.toNat ≤ 7 ∧
      ((1#4 ≤ s.bitCtr ∧
          emBitStore b s = .ok { s with buf := m, rowPar := s.rowPar ^^ b, bitCtr := s.bitCtr - 1 }) ∨
        (s.bitCtr = 0#4 ∧ emBitStore b s = .ok (emRowend b { s with buf := m })))) := by
  unfold emBitStore
  rcases memWriteBit_cases _ _ b s _ rfl with ⟨h1, h2, hw⟩ | ⟨hn, hw⟩
  · rw [hw]
    refine .inr ⟨_, rfl, h1, h2, ?_⟩
    by_cases h : 1#4 ≤ s.bitCtr
    · exact .inl ⟨h, by simp [h]⟩
    · exact .inr ⟨by bv_omega, by simp [h]⟩
  · rw [hw]
    exact .inl ⟨hn, rfl⟩

/-- EM_FRAMEEND: frozen with INTEGRITY_PASSED, or resynced (rule R127). -/
theorem emFrameend_cases (s : State) :
    (failMapAfterColumns s = 0#11 ∧
      emFrameend s = { s with failMap := 0#11, flag := .integrityPassed }) ∨
    (failMapAfterColumns s ≠ 0#11 ∧ emFrameend s = resyncEm s) := by
  by_cases h : failMapAfterColumns s = 0#11
  · refine .inl ⟨h, ?_⟩
    have h' : failMapAfterColumns { s with flag := .frameComplete } = 0#11 := h
    simp [emFrameend, h']
  · refine .inr ⟨h, ?_⟩
    have h' : failMapAfterColumns { s with flag := .frameComplete } ≠ 0#11 := h
    simp only [emFrameend, h', if_false, resync_em]
    rfl

/-- FDX_BIT by `bitCtr`: the header test, a data bit, the marker, or a fault (rule R154). -/
theorem fdxBit_cases (b : Bool) (s : State) :
    (s.bitCtr = 10#4 ∧ fdxBit b s = .ok (fdxSeek (headerSeen b s) { s with tenZ := windowAfter b s })) ∨
    (s.bitCtr < 8#4 ∧ fdxBit b s = fdxData b { s with tenZ := windowAfter b s }) ∨
    (s.bitCtr = 8#4 ∧ fdxBit b s = .ok (fdxMarker b { s with tenZ := windowAfter b s })) ∨
    (s.bitCtr ≠ 10#4 ∧ 8#4 < s.bitCtr ∧ fdxBit b s = .error .unusedCounterValue) := by
  by_cases h1 : s.bitCtr = 10#4
  · exact .inl ⟨h1, by simp [fdxBit, h1]⟩
  · by_cases h2 : s.bitCtr < 8#4
    · exact .inr (.inl ⟨h2, by simp [fdxBit, h1, h2]⟩)
    · by_cases h3 : s.bitCtr = 8#4
      · exact .inr (.inr (.inl ⟨h3, by simp [fdxBit, h3]⟩))
      · exact .inr (.inr (.inr ⟨h1, by bv_omega, by simp [fdxBit, h1, h2, h3]⟩))

/-- FDX_DATA: a fault outside the buffer; else the bit is stored and the index moves up, with the CRC check at (9, 8) and the
frame's end at (12, 8) (rule R156). -/
theorem fdxData_cases (b : Bool) (s : State) :
    (¬ (s.byteCtr.toNat ≤ 12 ∧ s.bitCtr.toNat ≤ 7) ∧
      fdxData b s = .error (.noBufferBit s.byteCtr.toNat s.bitCtr.toNat)) ∨
    (∃ n : State,
      n = { s with
        buf := s.buf.write s.byteCtr.toNat (withBit (s.buf.read s.byteCtr.toNat) s.bitCtr.toNat b)
        bitCtr := s.bitCtr + 1 } ∧
      s.byteCtr.toNat ≤ 12 ∧ s.bitCtr.toNat ≤ 7 ∧
      ((s.bitCtr = 7#4 ∧ s.byteCtr = 9#4 ∧ fdxData b s = .ok (fdxCrccheck n)) ∨
        (s.bitCtr = 7#4 ∧ s.byteCtr = 12#4 ∧ fdxData b s = .ok (fdxFrameend n)) ∨
        (¬ (s.bitCtr = 7#4 ∧ (s.byteCtr = 9#4 ∨ s.byteCtr = 12#4)) ∧ fdxData b s = .ok n))) := by
  unfold fdxData
  rcases memWriteBit_cases _ _ b s _ rfl with ⟨h1, h2, hw⟩ | ⟨hn, hw⟩
  · rw [hw]
    refine .inr ⟨_, rfl, h1, h2, ?_⟩
    have h7 : s.bitCtr + 1 = 8#4 ↔ s.bitCtr = 7#4 := by constructor <;> intro h <;> bv_omega
    by_cases hb : s.bitCtr = 7#4
    · by_cases h9 : s.byteCtr = 9#4
      · exact .inl ⟨hb, h9, by simp [hb, h9]⟩
      · by_cases h12 : s.byteCtr = 12#4
        · exact .inr (.inl ⟨hb, h12, by simp [hb, h12]⟩)
        · exact .inr (.inr ⟨by simp [h9, h12], by simp [hb, h9, h12]⟩)
    · have h8 : ¬ (s.bitCtr + 1 = 8#4) := fun h => hb (h7.1 h)
      exact .inr (.inr ⟨by simp [hb], by simp only [h8, if_false]⟩)
  · rw [hw]
    exact .inl ⟨hn, rfl⟩

/-- FDX_CRCCHECK: PASSED_PENDING, or resynced (rule R158). -/
theorem fdxCrccheck_cases (s : State) :
    (crcCalculated s = crcReceived s ∧ fdxCrccheck s = { s with flag := .passedPending }) ∨
    (crcCalculated s ≠ crcReceived s ∧ fdxCrccheck s = resyncFdx s) := by
  by_cases h : crcCalculated s = crcReceived s
  · exact .inl ⟨h, by simp [fdxCrccheck, h]⟩
  · refine .inr ⟨h, ?_⟩
    simp only [fdxCrccheck, h, if_false, resync_fdx]
    rfl

/-- EDGE: lost, frozen, or given to the decoder (rule R100, rule R104, rule R105). -/
theorem edge_cases (P : Config.Params) (line : Line) (level : Bool) (now : U32) (s : State) :
    (accepts line s = false ∧ edge P line level now s = .ok s) ∨
    (accepts line s = true ∧ s.flag = .integrityPassed ∧ edge P line level now s = .ok (countEdge now s)) ∨
    (accepts line s = true ∧ s.flag ≠ .integrityPassed ∧
      edge P line level now s = dispatch (classAt P now s) level (countEdge now s)) := by
  unfold edge decodePulse
  cases h : accepts line s with
  | false => exact .inl ⟨rfl, by simp⟩
  | true =>
    by_cases hf : s.flag = .integrityPassed
    · exact .inr (.inl ⟨rfl, hf, by simp [hf]⟩)
    · exact .inr (.inr ⟨rfl, hf, by simp [hf]⟩)

/-- SHUT: turned away while busy, else both antennas off (rule R183). -/
theorem shut_cases (s : State) :
    (s.sess ≠ .idle ∧ shut s = { s with resp := .reject }) ∨
    (s.sess = .idle ∧ shut s = { s with antC := true, antD := true, resp := .ok }) := by
  by_cases h : s.sess = .idle
  · exact .inr ⟨h, by simp [shut, busy, h, respond, antDisableAll]⟩
  · exact .inl ⟨h, by simp [shut, busy, h, reject, respond]⟩

/-- READ is turned away for exactly the four causes (rule R190). -/
theorem readRejection_none (P : Config.Params) (c : BitVec 2) (cd rt : U32) (s : State) :
    readRejection P c cd rt s = none ↔ s.sess = .idle ∧ legalCircuit c ∧ P.gateMargin ≤ cd ∧ cd ≤ rt := by
  rw [← BitVec.not_lt (x := cd), ← BitVec.not_lt (x := rt)]
  unfold readRejection busy legalCircuit
  by_cases h1 : s.sess = .idle <;> by_cases h2 : c = 1#2 <;> by_cases h3 : c = 2#2 <;>
    by_cases h4 : cd < P.gateMargin <;> by_cases h5 : rt < cd <;>
    simp [h1, h2, h3, h4, h5]

/-- READ: REJECT and no change, or READ_ACCEPT and OK (rule R190). -/
theorem read_cases (P : Config.Params) (p : Protocol) (c : BitVec 2) (cd rt : U32) (s : State) :
    (¬ (s.sess = .idle ∧ legalCircuit c ∧ P.gateMargin ≤ cd ∧ cd ≤ rt) ∧
      read P p c cd rt s = { s with resp := .reject }) ∨
    ((s.sess = .idle ∧ legalCircuit c ∧ P.gateMargin ≤ cd ∧ cd ≤ rt) ∧
      read P p c cd rt s = respond .ok (readAccept p c cd rt s)) := by
  unfold read
  cases h : readRejection P c cd rt s with
  | none => exact .inr ⟨(readRejection_none P c cd rt s).1 h, rfl⟩
  | some cause =>
    refine .inl ⟨fun hl => ?_, rfl⟩
    rw [(readRejection_none P c cd rt s).2 hl] at h
    cases h

/-- POLL: success before the deadline, the deadline, or on (rule R195). -/
theorem poll_cases (s : State) :
    (s.flag = .integrityPassed ∧ poll s = finish .tagDecoded s) ∨
    (s.flag ≠ .integrityPassed ∧ s.rt ≤ s.msCount ∧ poll s = finish .noTag s) ∨
    (s.flag ≠ .integrityPassed ∧ s.msCount < s.rt ∧ poll s = s) := by
  unfold poll
  by_cases h : s.flag = .integrityPassed
  · exact .inl ⟨h, by simp [h]⟩
  · by_cases hr : s.rt ≤ s.msCount
    · exact .inr (.inl ⟨h, hr, by simp [h, hr]⟩)
    · exact .inr (.inr ⟨h, BitVec.not_le.1 hr, by simp [h, hr]⟩)

/-- The gate: sleep on, NO_TAG, or WAIT and the first poll (rule R194). -/
theorem gate_cases (P : Config.Params) (s : State) :
    (s.msCount < s.cd ∧ gate P s = s) ∨
    (s.cd ≤ s.msCount ∧ s.pulseCount ≤ s.cd - P.gateMargin ∧ gate P s = finish .noTag s) ∨
    (s.cd ≤ s.msCount ∧ s.cd - P.gateMargin < s.pulseCount ∧ gate P s = poll { s with sess := .wait }) := by
  unfold gate gateFails
  by_cases h : s.cd ≤ s.msCount
  · by_cases hg : s.pulseCount ≤ s.cd - P.gateMargin
    · exact .inr (.inl ⟨h, hg, by simp [h, hg]⟩)
    · exact .inr (.inr ⟨h, BitVec.not_le.1 hg, by simp [h, hg]⟩)
  · exact .inl ⟨BitVec.not_le.1 h, by simp [h]⟩

/-- TICK by the session state (rule R193 to rule R195). -/
theorem tick_cases (P : Config.Params) (s : State) :
    (s.sess = .idle ∧ tick P s = s) ∨ (s.sess = .check ∧ tick P s = gate P (countMs s)) ∨
    (s.sess = .wait ∧ tick P s = poll (countMs s)) := by
  unfold tick
  cases h : s.sess with
  | idle => exact .inl ⟨rfl, rfl⟩
  | check => exact .inr (.inl ⟨rfl, rfl⟩)
  | wait => exact .inr (.inr ⟨rfl, rfl⟩)

end Sys2Proof.Machine
end

