-- ==== Sys2Proof/Laws/Claims.lean ====
section
/-! SUPPORT. Small laws of the words the statements are written in: one-bit stores, when the decoders' bit operations complete,
parities, and the FDX-B window bit by bit. -/

namespace Sys2Proof.Machine

/-- A bit write in a canonical buffer sets that bit and no other (rule R66). -/
theorem setsBit_write (m : Memory) (i k : Nat) (b : Bool) (hw : m.wf = true) (hi : i ≤ 12) (hk : k ≤ 7) :
    setsBit m (m.write i (withBit (m.read i) k b)) i k b :=
  ⟨Memory.wf_write _ _ _ (by omega) hw, fun j n => readBit_after_write _ _ _ _ _ _ hw (by omega)⟩

/-- EM_BIT in ASSEMBLE completes when its position is in the buffer. -/
theorem emBitStore_ok (b : Bool) (s : State) (h1 : s.byteCtr.toNat ≤ 12) (h2 : s.bitCtr.toNat ≤ 7) :
    ∃ t, emBitStore b s = .ok t := by
  rcases emBitStore_cases b s with ⟨hn, _⟩ | ⟨m, _, _, _, ⟨_, he⟩ | ⟨_, he⟩⟩
  · exact absurd ⟨h1, h2⟩ hn
  · exact ⟨_, he⟩
  · exact ⟨_, he⟩

/-- FDX_DATA completes when its position is in the buffer. -/
theorem fdxData_ok (b : Bool) (s : State) (h1 : s.byteCtr.toNat ≤ 12) (h2 : s.bitCtr.toNat ≤ 7) :
    ∃ t, fdxData b s = .ok t := by
  rcases fdxData_cases b s with ⟨hn, _⟩ | ⟨m, _, _, _, ⟨_, _, he⟩ | ⟨_, _, he⟩ | ⟨_, he⟩⟩
  · exact absurd ⟨h1, h2⟩ hn
  all_goals exact ⟨_, he⟩

/-- FDX_BIT completes in the counters' ranges of rule R46. -/
theorem fdxBit_ok (b : Bool) (s : State) (h1 : s.byteCtr.toNat ≤ 12) (h2 : s.bitCtr.toNat ≤ 8 ∨ s.bitCtr.toNat = 10) :
    ∃ t, fdxBit b s = .ok t := by
  rcases fdxBit_cases b s with ⟨_, he⟩ | ⟨h, he⟩ | ⟨h, he⟩ | ⟨h, h', he⟩
  · exact ⟨_, he⟩
  · rw [he]
    exact fdxData_ok _ _ h1 (by simp only; bv_omega)
  · exact ⟨_, he⟩
  · exfalso
    bv_omega

/-- The XOR of a list of bits is the parity of its ones. -/
theorem xorAll_eq_oddOnes (l : List Bool) : xorAll l = oddOnes l := by
  induction l with
  | nil => rfl
  | cons a l ih =>
    simp only [xorAll, oddOnes] at *
    rw [ih, List.count_cons]
    rcases Nat.mod_two_eq_zero_or_one (l.count true) with h | h <;> cases a <;> simp [Nat.add_mod, h]

/-- No column is bad exactly when each column's parity is its bit of row 10 (rule R127). -/
theorem columnsBad_eq_false (s : State) :
    columnsBad s = false ↔ ∀ c, 1 ≤ c → c ≤ 4 →
      oddOnes ((List.range 10).map (fun r => (s.buf.read r).getLsbD c)) = (s.buf.read 10).getLsbD c := by
  simp only [columnsBad, columnParity, xorAll_eq_oddOnes, memReadBit, List.any_cons, List.any_nil, Bool.or_eq_false_iff,
    bne_eq_false_iff_eq]
  constructor
  · rintro ⟨h4, h3, h2, h1, _⟩ c hc hc'
    obtain rfl | rfl | rfl | rfl : c = 1 ∨ c = 2 ∨ c = 3 ∨ c = 4 := by omega
    exacts [h1, h2, h3, h4]
  · intro h
    exact ⟨h 4 (by omega) (by omega), h 3 (by omega) (by omega), h 2 (by omega) (by omega), h 1 (by omega) (by omega), trivial⟩

/-- A bit of `failMap` after the column check (rule R127). -/
theorem failMapAfterColumns_getLsbD (s : State) (r : Nat) :
    (failMapAfterColumns s).getLsbD r = if r = 10 then columnsBad s else s.failMap.getLsbD r :=
  withBit_getLsbD _ _ _ _ (by omega)

/-- A bit of the window after a decoded bit (rule R154). -/
theorem windowAfter_getLsbD (b : Bool) (s : State) (k : Nat) (hk : k < 16) :
    (windowAfter b s).getLsbD k = if k = 0 then b else s.tenZ.getLsbD (k - 1) := by
  by_cases h0 : k = 0
  · subst h0
    cases b <;> simp [windowAfter, bitAs]
  · have h1 : ¬ k < 1 := by omega
    have hk' : k - 1 < 16 := by omega
    cases b <;> simp [windowAfter, bitAs, h0, hk, BitVec.getElem_one, BitVec.getLsbD_eq_getElem hk']

end Sys2Proof.Machine
end

