-- ==== Sys2Proof/Laws/Encoding.lean ====
section
/-! SUPPORT. The bits of an event word's field, and of the words the encoder builds from fields. -/

namespace Sys2Proof

@[simp] theorem field_getLsbD {w : Nat} (k : Nat) (v : BitVec w) (i : Nat) :
    (field k v).getLsbD i = (decide (i < 72) && decide (k ≤ i) && v.getLsbD (i - k)) := by
  simp only [field, BitVec.getLsbD_shiftLeft, BitVec.getLsbD_setWidth]
  by_cases h : i < 72
  · have hik : i - k < 72 := by omega
    by_cases h2 : k ≤ i
    · simp [h, h2, hik]
    · simp [h2, Nat.not_le.1 h2]
  · simp [h]

@[simp] theorem field_getElem {w : Nat} (k : Nat) (v : BitVec w) (i : Nat) (h : i < 72) :
    (field k v)[i] = (decide (k ≤ i) && v.getLsbD (i - k)) := by
  rw [← BitVec.getLsbD_eq_getElem, field_getLsbD]
  simp [h]

/-- The kind code of a word whose top field is `k` and whose other bits come from a word below bit 69. -/
theorem eventKind_or (k : BitVec 3) (low : EventWord) (h : ∀ i, 69 ≤ i → low.getLsbD i = false) :
    eventKind (field 69 k ||| low) = k := by
  unfold eventKind
  ext i hi
  have h0 := h (69 + i) (by omega)
  have h72 : 69 + i < 72 := by omega
  rw [BitVec.getLsbD_eq_getElem h72] at h0
  simp [h0, h72, BitVec.getLsbD_eq_getElem hi]

/-- A word that is its kind field alone. -/
@[simp] theorem eventKind_field (k : BitVec 3) : eventKind (field 69 k) = k := by
  simpa using eventKind_or k 0#72 (by simp)

end Sys2Proof
end

