-- ==== Sys2Proof/Laws/PerInstr.lean ====
section
/-! SUPPORT. Facts stated per instruction. `KindField`: an event's word carries the kind code of its row (rule R80), and a row
that is no event has no word. -/

namespace Sys2Proof.Laws.KindField

/-- The kind field of the instruction's word is its row's code; without a word there is no code. -/
def Statement (i : Instr) : Prop := (encode i).map eventKind = eventCode i

theorem nop : Statement .nop := by
  simp [Statement, encode, eventCode]

theorem edge (line : Line) (level : Bool) (now : U32) : Statement (.edge line level now) := by
  simp only [Statement, encode, eventCode, Option.map_some, BitVec.or_assoc]
  refine congrArg some (eventKind_or _ _ fun i hi => ?_)
  have h1 : i - 68 ≠ 0 := by omega
  have h2 : i - 67 ≠ 0 := by omega
  simp [bitVecOfBool, h1, h2, BitVec.getLsbD_of_ge now i (by omega)]

theorem tick : Statement .tick := by
  simp [Statement, encode, eventCode]

theorem read (p : Protocol) (c : BitVec 2) (cd : U32) (rt : U32) : Statement (.read p c cd rt) := by
  simp only [Statement, encode, eventCode, Option.map_some, BitVec.or_assoc]
  refine congrArg some (eventKind_or _ _ fun i hi => ?_)
  have h1 : i - 68 ≠ 0 := by omega
  simp [bitVecOfBool, h1, BitVec.getLsbD_of_ge c (i - 66) (by omega), BitVec.getLsbD_of_ge rt (i - 32) (by omega),
    BitVec.getLsbD_of_ge cd i (by omega)]

theorem shut : Statement .shut := by
  simp [Statement, encode, eventCode]

theorem rdbuf (idx : BitVec 4) : Statement (.rdbuf idx) := by
  simp only [Statement, encode, eventCode, Option.map_some]
  refine congrArg some (eventKind_or _ _ fun i hi => ?_)
  simp [BitVec.getLsbD_of_ge idx i (by omega)]

theorem reserved6 (payload : BitVec 69) : Statement (.reserved6 payload) := by
  simp only [Statement, encode, eventCode, Option.map_some]
  refine congrArg some (eventKind_or _ _ fun i hi => ?_)
  simp [BitVec.getLsbD_of_ge payload i (by omega)]

theorem reset : Statement .reset := by
  simp [Statement, encode, eventCode]

theorem edgeIgnore : Statement .edgeIgnore := rfl

theorem classify (now : U32) : Statement (.classify now) := rfl

theorem classEm (dt : U32) : Statement (.classEm dt) := rfl

theorem classFdx (dt : U32) : Statement (.classFdx dt) := rfl

theorem freeze : Statement .freeze := rfl

theorem dispatch (cls : PulseClass) (level : Bool) : Statement (.dispatch cls level) := rfl

theorem emInvalid : Statement .emInvalid := rfl

theorem emLong (level : Bool) : Statement (.emLong level) := rfl

theorem emShort (level : Bool) : Statement (.emShort level) := rfl

theorem emBitSeek (b : Bool) : Statement (.emBitSeek b) := rfl

theorem emBitStore (b : Bool) : Statement (.emBitStore b) := rfl

theorem emRowend (b : Bool) : Statement (.emRowend b) := rfl

theorem emFrameend : Statement .emFrameend := rfl

theorem resyncEm : Statement .resyncEm := rfl

theorem fdxInvalid : Statement .fdxInvalid := rfl

theorem fdxLong : Statement .fdxLong := rfl

theorem fdxShort : Statement .fdxShort := rfl

theorem fdxBit (b : Bool) : Statement (.fdxBit b) := rfl

theorem fdxSeek (hdr : Bool) : Statement (.fdxSeek hdr) := rfl

theorem fdxData (b : Bool) : Statement (.fdxData b) := rfl

theorem fdxMarker (b : Bool) : Statement (.fdxMarker b) := rfl

theorem fdxCrccheck : Statement .fdxCrccheck := rfl

theorem crc16 (bytes : List Byte) : Statement (.crc16 bytes) := rfl

theorem fdxFrameend : Statement .fdxFrameend := rfl

theorem resyncFdx : Statement .resyncFdx := rfl

theorem antEnable (c : BitVec 2) : Statement (.antEnable c) := rfl

theorem antDisableAll : Statement .antDisableAll := rfl

theorem readReject : Statement .readReject := rfl

theorem readAccept (p : Protocol) (c : BitVec 2) (cd : U32) (rt : U32) : Statement (.readAccept p c cd rt) := rfl

theorem armclear (p : Protocol) : Statement (.armclear p) := rfl

theorem tickIdle : Statement .tickIdle := rfl

theorem tickCheck : Statement .tickCheck := rfl

theorem tickWait : Statement .tickWait := rfl

theorem finish (o : ReadOutcome) : Statement (.finish o) := rfl

theorem shutReject : Statement .shutReject := rfl

theorem emPayload : Statement .emPayload := rfl

theorem emUser : Statement .emUser := rfl

theorem emId : Statement .emId := rfl

theorem emHex : Statement .emHex := rfl

theorem fdxAnimal : Statement .fdxAnimal := rfl

theorem fdxCountry : Statement .fdxCountry := rfl

theorem fdxExt : Statement .fdxExt := rfl

theorem fdxExt24 : Statement .fdxExt24 := rfl

theorem fdxCrcfield : Statement .fdxCrcfield := rfl

theorem fdxId64 : Statement .fdxId64 := rfl

theorem fdxIdlow : Statement .fdxIdlow := rfl

theorem fdxStr : Statement .fdxStr := rfl

end Sys2Proof.Laws.KindField
end

