-- ==== Sys2Proof/Tests/Slice0.lean ====
section
/-! SUPPORT. Tests: ill-formed terms, decode words, one-step tests, and for each statement a concrete state and operands that
meet its hypotheses. Expected values are those of spec/95_test_vectors.md (the vector's name stands at the test) or of the
examples in the rules. -/

namespace Sys2Proof.Tests

open Sys2Proof.Machine

/-! ## WellFormed: each check refuses an ill-formed term -/

theorem test_wf_antEnable_zero : Instr.wf (.antEnable 0) = false := by decide
theorem test_wf_antEnable_three : Instr.wf (.antEnable 3) = false := by decide
theorem test_wf_readAccept_circuit : Instr.wf (.readAccept .em4100 3 100 200) = false := by decide
theorem test_wf_readAccept_checkDelay : Instr.wf (.readAccept .em4100 1 24 200) = false := by decide
theorem test_wf_readAccept_readTime : Instr.wf (.readAccept .em4100 1 100 99) = false := by decide
theorem test_wf_fdxMarker_zero : Instr.wf (.fdxMarker false) = false := by decide
theorem test_wf_accepts :
    (Instr.wf (.antEnable 1) && Instr.wf (.readAccept .fdxb 2 25 25) && Instr.wf (.fdxMarker true) &&
      Instr.wf (.read .em4100 3 0 0)) = true := by decide

/-! ## Decode: words written out from the spec (rule R82 to rule R86, rule R90, rule R96, and the programs of section 3) -/

theorem test_decode_nop : decode 0x000000000000000000#72 = .ok .nop := by decide
theorem test_decode_edge_a_high : decode 0x2800000000000006E8#72 = .ok (.edge .a true 1768) := by decide
theorem test_decode_edge_a_low : decode 0x2000000000000004E8#72 = .ok (.edge .a false 1256) := by decide
theorem test_decode_edge_b_high : decode 0x3800000000000003E8#72 = .ok (.edge .b true 1000) := by decide
theorem test_decode_edge_b_low : decode 0x3000000000000004E8#72 = .ok (.edge .b false 1256) := by decide
theorem test_decode_tick : decode 0x400000000000000000#72 = .ok .tick := by decide
theorem test_decode_read_em : decode 0x64000000C800000064#72 = .ok (.read .em4100 1 100 200) := by decide
theorem test_decode_read_fdx : decode 0x780000007800000032#72 = .ok (.read .fdxb 2 50 120) := by decide
theorem test_decode_read_circuit_three : decode 0x6C000000C800000064#72 = .ok (.read .em4100 3 100 200) := by decide
theorem test_decode_shut : decode 0x800000000000000000#72 = .ok .shut := by decide
theorem test_decode_rdbuf_twelve : decode 0xA0000000000000000C#72 = .ok (.rdbuf 12) := by decide
theorem test_decode_reserved : decode 0xC00000000000000000#72 = .ok (.reserved6 0) := by decide
theorem test_decode_reset : decode 0xE00000000000000000#72 = .ok .reset := by decide
theorem test_decode_reserved_bit_refused : decode 0x400000000000000001#72 = .error (.reservedBit 2) := by decide
theorem test_decode_read_reserved_bit_refused : decode 0x65000000C800000064#72 = .error (.reservedBit 3) := by decide
theorem test_decodeTableWord_read : decodeTableWord 72 0x64000000C800000064 = some (.read .em4100 1 100 200) := by decide

/-! ## Helpers -/

/-- The operation `i` answers a next state with the property `p`. -/
def after (i : Instr) (s : State) (p : State → Bool) : Bool :=
  match exec i s with
  | .next t => p t
  | .fault _ => false
  | .refused _ => false

/-- The response of `i`, if it answers a next state. -/
def respOf (i : Instr) (s : State) : Option Resp :=
  match exec i s with
  | .next t => some t.resp
  | .fault _ => none
  | .refused _ => none

/-- The buffer with the bytes of a list. -/
def bufOf : Nat → List Byte → Memory
  | _, [] => []
  | i, b :: bs => Memory.entry i b (bufOf (i + 1) bs)

/-- After `READ EM, 1, 100, 200` from reset. -/
def emArmed : State := readAccept .em4100 1 100 200 State.reset

/-- After `READ FDX, 1, 50, 100` from reset. -/
def fdxArmed : State := readAccept .fdxb 1 50 100 State.reset

/-- The buffer of program P3's end. -/
def frameFxb : Memory := bufOf 0 [0xD5, 0xC4, 0xB3, 0xA2, 0x01, 0x45, 0x00, 0x80, 0x5C, 0xD9, 0x01, 0x23, 0x45]

/-- The buffer of program P1's end. -/
def frameEmf : Memory := bufOf 0 [0x00, 0x1E, 0x00, 0x03, 0x00, 0x05, 0x00, 0x06, 0x00, 0x09, 0x16]

/-! ## Events (vectors K, S, A, Z) -/

theorem test_nop_keeps_state : after .nop emArmed (fun t => t == { emArmed with resp := .silent }) = true := by decide
theorem test_edge_ignored_K1 : after (.edge .a true 1000) State.reset (fun t => t.lastEdge == 0 && t.pulseCount == 0) = true := by
  decide
theorem test_edge_wraps_K5 :
    after (.edge .a false 0) { emArmed with lastEdge := 0xFFFFFF00, pulseCount := 1, longSeen := true }
      (fun t => t.lastEdge == 0 && t.pulseCount == 2 && t.emHalf) = true := by decide
theorem test_tick_gate_S1 :
    after .tick { emArmed with msCount := 99, pulseCount := 75 }
      (fun t => t.sess == .idle && t.done && t.outcome == .noTag && t.antC && t.antD) = true := by decide
theorem test_tick_gate_S2 :
    after .tick { emArmed with msCount := 99, pulseCount := 76 } (fun t => t.sess == .wait && t.msCount == 100) = true := by
  decide
theorem test_read_circuit_S10 : respOf (.read .em4100 3 100 200) State.reset = some .reject := by decide
theorem test_read_bounds_S14 :
    after (.read .fdxb 1 25 25) State.reset
      (fun t => t.resp == .ok && t.sess == .check && t.bitCtr == 10 && !t.antC && t.antD) = true := by decide
theorem test_shut_busy_A5 : after .shut emArmed (fun t => t == { emArmed with resp := .reject }) = true := by decide
theorem test_shut_idle_A1 : respOf .shut State.reset = some .ok := by decide
theorem test_rdbuf_Z3 :
    respOf (.rdbuf 4) { fdxArmed with buf := frameFxb } = some (.byte 0x01) ∧
      respOf (.rdbuf 13) { fdxArmed with buf := frameFxb } = some (.byte 0x00) := by decide
theorem test_reserved_S17 : after (.reserved6 0) State.reset (fun t => t == { State.reset with resp := .reject }) = true := by
  decide
theorem test_reset_Z1 :
    after .reset { fdxArmed with buf := frameFxb, pulseCount := 7, ones := 3 } (fun t => t == State.reset) = true := by decide
theorem test_step_reserved_bit_S18 :
    (match step { State.reset with events := [0x400000000000000001#72] } with
      | .next t => t == { State.reset with resp := .reject }
      | .fault _ => false
      | .refused _ => false) = true := by decide
theorem test_step_placed_word :
    (match step (State.reset.withFetchWord 72 0x64000000C800000064) with
      | .next t => t == { emArmed with resp := .ok }
      | .fault _ => false
      | .refused _ => false) = true := by decide

/-! ## Classifier (section 2.2) -/

theorem test_classEm_bounds :
    [170, 171, 394, 395, 396, 599, 600].map (fun dt => classEm Config.defaults dt) =
      [.invalid, .short, .short, .invalid, .long, .long, .invalid] := by decide
theorem test_classFdx_bounds :
    [85, 86, 169, 170, 200, 201, 274, 275].map (fun dt => classFdx Config.defaults dt) =
      [.invalid, .short, .short, .invalid, .invalid, .long, .long, .invalid] := by decide
theorem test_classEm_resp : respOf (.classEm 512) State.reset = some (.pulse .long) := by decide
theorem test_classFdx_resp : respOf (.classFdx 128) State.reset = some (.pulse .short) := by decide
theorem test_classify_K9 :
    after (.classify 4000) { emArmed with lastEdge := 5000 }
      (fun t => t.resp == .pulse .invalid && t.lastEdge == 4000 && t.pulseCount == 1) = true := by decide
theorem test_edgeIgnore : after .edgeIgnore emArmed (fun t => t == { emArmed with resp := .silent }) = true := by decide
theorem test_freeze : after .freeze emArmed (fun t => t == { emArmed with resp := .silent }) = true := by decide
theorem test_dispatch_first_long_K7 :
    after (.dispatch .long true) emArmed (fun t => t.longSeen && t.ones == 1) = true := by decide

/-! ## EM4100 decoder (section 2.3 and the rules' examples) -/

theorem test_emInvalid_E1_step7 :
    after .emInvalid { emArmed with longSeen := true, ones := 5, emHalf := true }
      (fun t => !t.longSeen && t.ones == 0 && !t.emHalf && t.bitCtr == 4) = true := by decide
theorem test_emLong_E1_step6 :
    after (.emLong false) { emArmed with longSeen := true, ones := 2 } (fun t => t.ones == 0 && t.longSeen) = true := by decide
theorem test_emShort_E1_step2 : after (.emShort true) emArmed (fun t => t == { emArmed with resp := .silent }) = true := by decide
theorem test_emShort_E1_step5 :
    after (.emShort true) { emArmed with longSeen := true, emHalf := true, ones := 1 } (fun t => !t.emHalf && t.ones == 2) = true := by
  decide
theorem test_emBitSeek_ninth : after (.emBitSeek true) { emArmed with ones := 8 } (fun t => t.ones == 9 && t.buf == []) = true := by
  decide
theorem test_emBitStore_first :
    after (.emBitStore true) { emArmed with ones := 9, byteCtr := 1 }
      (fun t => t.buf == [(1, 0x10)] && t.rowPar && t.bitCtr == 3) = true := by decide
theorem test_emBitStore_row9_edge105 :
    after (.emBitStore true) { emArmed with ones := 9, byteCtr := 9, bitCtr := 0, rowPar := true, buf := [(9, 0x08)] }
      (fun t => t.buf == [(9, 0x09)] && t.byteCtr == 10 && t.bitCtr == 4 && !t.rowPar && t.failMap == 0) = true := by decide
theorem test_emRowend_bad_row3 :
    after (.emRowend false) { emArmed with ones := 9, byteCtr := 3, bitCtr := 0, rowPar := true }
      (fun t => t.failMap == 0x008 && t.byteCtr == 4) = true := by decide
theorem test_emFrameend_E2 :
    after .emFrameend { emArmed with ones := 9, byteCtr := 10, bitCtr := 0, buf := frameEmf }
      (fun t => t.flag == .integrityPassed && t.byteCtr == 10 && t.ones == 9) = true := by decide
theorem test_emFrameend_E7 :
    after .emFrameend { emArmed with ones := 9, byteCtr := 10, bitCtr := 0, buf := frameEmf.write 10 0x06 }
      (fun t => t.flag == .inProgress && t.byteCtr == 0 && t.ones == 0 && t.buf.read 10 == 0x06) = true := by decide
theorem test_resyncEm_example :
    after .resyncEm { emArmed with ones := 9, byteCtr := 3, bitCtr := 2, failMap := 0x004, pulseCount := 9 }
      (fun t => t.ones == 0 && t.byteCtr == 0 && t.bitCtr == 4 && t.failMap == 0 && t.pulseCount == 9) = true := by decide

/-! ## FDX-B decoder (section 2.4) -/

theorem test_fdxInvalid_F8 :
    after .fdxInvalid { fdxArmed with tenZ := 0x801F, bitCtr := 4, buf := [(0, 0x0F)] }
      (fun t => t.tenZ == 0xFFFF && t.bitCtr == 10 && t.buf == [(0, 0x0F)]) = true := by decide
theorem test_fdxLong_F5 :
    after .fdxLong { fdxArmed with tenZ := 0xFC00 } (fun t => t.tenZ == 0xF801 && t.byteCtr == 0 && t.bitCtr == 0) = true := by
  decide
theorem test_fdxLong_F6 : after .fdxLong { fdxArmed with tenZ := 0xFE00 } (fun t => t.tenZ == 0xFC01 && t.bitCtr == 10) = true := by
  decide
theorem test_fdxShort_F10b :
    after .fdxShort { fdxArmed with tenZ := 0x01FE, bitCtr := 8, pulse2 := true, buf := [(0, 0x7F)] }
      (fun t => t.tenZ == 0x01FE && t.bitCtr == 8 && !t.pulse2) = true := by decide
theorem test_fdxShort_F10c :
    after .fdxShort { fdxArmed with tenZ := 0x01FE, bitCtr := 8, buf := [(0, 0x7F)] }
      (fun t => t.tenZ == 0xFFFF && t.bitCtr == 10 && t.buf == [(0, 0x7F)]) = true := by decide
theorem test_fdxBit_window :
    after (.fdxBit true) { fdxArmed with tenZ := 0x01AB, bitCtr := 8 } (fun t => t.tenZ == 0x0357 && t.byteCtr == 1) = true := by
  decide
theorem test_fdxSeek_header : after (.fdxSeek true) fdxArmed (fun t => t.byteCtr == 0 && t.bitCtr == 0) = true := by decide
theorem test_fdxData_example :
    after (.fdxData true) { fdxArmed with bitCtr := 2, buf := [(0, 0x01)] } (fun t => t.buf == [(0, 0x05)] && t.bitCtr == 3) = true := by
  decide
theorem test_fdxData_P3_edge162 :
    after (.fdxData true) { fdxArmed with byteCtr := 9, bitCtr := 7, buf := (bufOf 0 [0xD5, 0xC4, 0xB3, 0xA2, 0x01, 0x45, 0x00, 0x80, 0x5C, 0x59]) }
      (fun t => t.flag == .passedPending && t.buf.read 9 == 0xD9 && t.bitCtr == 8) = true := by decide +kernel
theorem test_fdxMarker_F11 :
    after (.fdxMarker true) { fdxArmed with bitCtr := 8 } (fun t => t.byteCtr == 1 && t.bitCtr == 0) = true := by decide
theorem test_fdxCrccheck_F17 :
    after .fdxCrccheck { fdxArmed with byteCtr := 9, bitCtr := 8, buf := (bufOf 0 [0xD5, 0xC4, 0xB3, 0xA3, 0x01, 0x45, 0x00, 0x00, 0x54, 0x5D]) }
      (fun t => t.flag == .inProgress && t.bitCtr == 10) = true := by decide +kernel
theorem test_crc16_vectors :
    crc16 [0x01] = 0x1189 ∧ crc16 [0x80] = 0x8408 ∧ crc16 [0xD5, 0xC4, 0xB3, 0xA2, 0x01, 0x45, 0x00, 0x80] = 0xD95C := by
  decide +kernel
theorem test_crc16_check_string :
    respOf (.crc16 [0x31, 0x32, 0x33, 0x34, 0x35, 0x36, 0x37, 0x38, 0x39]) State.reset = some (.bits16 0x2189) := by
  decide +kernel
theorem test_fdxFrameend :
    after .fdxFrameend { fdxArmed with byteCtr := 12, bitCtr := 8, flag := .passedPending }
      (fun t => t.flag == .integrityPassed && t.byteCtr == 12) = true := by decide
theorem test_resyncFdx_example :
    after .resyncFdx { fdxArmed with byteCtr := 5, bitCtr := 3, tenZ := 0x1234, pulse2 := true }
      (fun t => t.byteCtr == 0 && t.bitCtr == 10 && t.tenZ == 0xFFFF && !t.pulse2) = true := by decide

/-! ## Antennas and session (sections 2.6 and 2.7) -/

theorem test_antEnable_two : after (.antEnable 2) State.reset (fun t => t.antC && !t.antD) = true := by decide
theorem test_antDisableAll : after .antDisableAll emArmed (fun t => t.antC && t.antD && t.circuit == 1) = true := by decide
theorem test_shutReject : respOf .shutReject emArmed = some .reject := by decide
theorem test_readReject : respOf .readReject emArmed = some .reject := by decide
theorem test_readAccept_example :
    after (.readAccept .fdxb 2 50 120) State.reset
      (fun t => t.circuit == 2 && t.antC && !t.antD && t.protocol == .fdxb && t.bitCtr == 10 && t.tenZ == 0xFFFF && t.cd == 50 &&
        t.rt == 120 && t.armed && t.sess == .check) = true := by decide
theorem test_armclear_example :
    after (.armclear .em4100) { fdxArmed with buf := frameFxb, pulseCount := 206 }
      (fun t => t.buf == [] && t.bitCtr == 4 && t.pulseCount == 0) = true := by decide
theorem test_tickIdle_S16 : after .tickIdle State.reset (fun t => t.msCount == 0) = true := by decide
theorem test_tickCheck_S4 :
    after .tickCheck { emArmed with cd := 25, rt := 25, msCount := 24, pulseCount := 1 }
      (fun t => t.sess == .idle && t.outcome == .noTag && t.msCount == 25) = true := by decide
theorem test_tickWait_S9 :
    after .tickWait { emArmed with sess := .wait, msCount := 100, flag := .integrityPassed }
      (fun t => t.sess == .idle && t.outcome == .tagDecoded && t.msCount == 101) = true := by decide
theorem test_finish_example :
    after (.finish .tagDecoded) emArmed
      (fun t => t.antC && t.antD && !t.armed && t.outcome == .tagDecoded && t.done && t.sess == .idle) = true := by decide

/-! ## Views (section 2.8) -/

theorem test_emPayload_V1 :
    respOf .emPayload { emArmed with buf := frameEmf } = some (.bytes [0x0F, 0x01, 0x02, 0x03, 0x04]) := by decide
theorem test_emUser_V1 : respOf .emUser { emArmed with buf := frameEmf } = some (.byte 0x0F) := by decide
theorem test_emId_V1 : respOf .emId { emArmed with buf := frameEmf } = some (.bits32 0x01020304) := by decide
theorem test_emHex_V1 :
    respOf .emHex { emArmed with buf := frameEmf } = some (.text ['0', 'F', '0', '1', '0', '2', '0', '3', '0', '4']) := by decide
theorem test_fdxAnimal_V5 : respOf .fdxAnimal { fdxArmed with buf := frameFxb } = some (.bits38 0x1A2B3C4D5) := by decide
theorem test_fdxCountry_V5 : respOf .fdxCountry { fdxArmed with buf := frameFxb } = some (.bits10 276) := by decide
theorem test_fdxExt_V5 : respOf .fdxExt { fdxArmed with buf := frameFxb } = some (.byte 0x01) := by decide
theorem test_fdxExt24_V5 : respOf .fdxExt24 { fdxArmed with buf := frameFxb } = some (.bits24 0x452301) := by decide
theorem test_fdxCrcfield_V5 : respOf .fdxCrcfield { fdxArmed with buf := frameFxb } = some (.bits16 0xD95C) := by decide
theorem test_fdxId64_V5 : respOf .fdxId64 { fdxArmed with buf := frameFxb } = some (.bits64 0x80004501A2B3C4D5) := by decide
theorem test_fdxIdlow_V5 : respOf .fdxIdlow { fdxArmed with buf := frameFxb } = some (.bits32 0xA2B3C4D5) := by decide
theorem test_fdxStr_V5 :
    respOf .fdxStr { fdxArmed with buf := frameFxb } =
      some (.text ['1', '1', '4', '.', '0', '1', 'A', '2', 'B', '3', 'C', '4', 'D', '5']) := by decide

/-! ## Witnesses: states and operands that meet the hypotheses of the statements -/

/-- An EM4100 session in CHECK. -/
theorem emArmed_inv : ControlInv emArmed := by constructor <;> decide

/-- A passed EM4100 frame of zeros (vector E11), one TICK before `cd`. -/
def emPassed : State :=
  { emArmed with pulseCount := 128, ones := 9, byteCtr := 10, bitCtr := 0, longSeen := true, flag := .integrityPassed, msCount := 99 }

theorem emPassed_inv : ControlInv emPassed := by constructor <;> decide

/-- An FDX-B frame of zeros (vector F15) before the last bit of octet 12, in WAIT one TICK before `rt`. -/
def fdxLast : State :=
  { fdxArmed with
    pulseCount := 240, byteCtr := 12, bitCtr := 7, tenZ := 0x0080, flag := .passedPending, sess := .wait, msCount := 99
    lastEdge := 1000 }

theorem fdxLast_inv : ControlInv fdxLast := by constructor <;> decide

/-- The frame of zeros, passed. -/
def fdxPassed : State := { fdxLast with bitCtr := 8, tenZ := 0x0100, pulse2 := true, flag := .integrityPassed }

theorem fdxPassed_inv : ControlInv fdxPassed := by constructor <;> decide

theorem emPassed_frame : FrameInv emPassed where
  emLayout := fun _ _ => ⟨by show (0#8).toNat < 32; decide, fun _ => rfl⟩
  emRows := by decide
  emRowPar := by decide
  emColumnsGood := by decide
  fdxCrcGood := by decide

theorem fdxPassed_frame : FrameInv fdxPassed where
  emLayout := fun h => absurd h (by decide)
  emRows := by decide
  emRowPar := by decide
  emColumnsGood := by decide
  fdxCrcGood := fun _ _ => by decide +kernel

theorem witness_DecodeAndEncodeAgree :
    Instr.isEvent (.read .fdxb 3 0xFFFFFFFF 0) = true ∧ decode 0xDFFFFFFFFFFFFFFFFF#72 = .ok (.reserved6 0x1FFFFFFFFFFFFFFFFF) ∧
      Instr.isEvent .fdxStr = false := by decide

theorem witness_DecoderAcceptsExactlyTheTableRows :
    (⟨0x400000000000000000, 0xFFFFFFFFFFFFFFFFFF⟩ : EventRow) ∈ eventRows ∧
      (⟨0x400000000000000000, 0xFFFFFFFFFFFFFFFFFF⟩ : EventRow).matches 0x400000000000000000 = true ∧
      decode 0x400000000000000000#72 = .ok .tick := by decide

theorem witness_StepRunsTheNextEvent :
    ({ State.reset with events := [0x400000000000000000] } : State).events = [0x400000000000000000] ∧
      decode 0x400000000000000000#72 = .ok .tick ∧ decode 0x400000000000000001#72 = .error (.reservedBit 2) ∧
      State.reset.events = [] ∧ encode (.rdbuf 15) = some 0xA0000000000000000F := by decide

theorem witness_OperationsWithoutEffect : State.reset.sess = .idle := by decide

theorem witness_RejectionsChangeNothing :
    emArmed.sess ≠ .idle ∧ (3#2 = 0#2 ∨ 3#2 = 3#2) ∧ (24#32 < params.gateMargin) ∧ (99#32 < 100#32) ∧
      (0xC00000000000000001#72).extractLsb' 69 3 = 6#3 ∧
      ∀ r ∈ eventRows, r.matches 0x400000000000000001 = false := by decide

theorem witness_RdbufReadsOneByte : (12#4).toNat ≤ 12 ∧ 12 < (13#4).toNat := by decide

theorem witness_EdgeAcceptanceFreezeAndDispatch :
    State.reset.armed = false ∧ Line.b ≠ (if emArmed.circuit = 1#2 then .a else .b) ∧
      (emPassed.armed = true ∧ Line.a = (if emPassed.circuit = 1#2 then .a else .b) ∧ emPassed.flag = .integrityPassed) ∧
      (emArmed.armed = true ∧ Line.a = (if emArmed.circuit = 1#2 then .a else .b) ∧ emArmed.flag ≠ .integrityPassed) := by decide

theorem witness_DispatchSelectsTheDecoder : emArmed.protocol = .em4100 ∧ fdxArmed.protocol = .fdxb := by decide

theorem witness_EdgeCompletesInReachableStates : ControlInv fdxLast := fdxLast_inv

theorem witness_EdgeKeepsTheSessionRegisters :
    fdxLast.buf.wf = true ∧ (after (.edge .a true 1256) fdxLast (fun _ => true) && after (.dispatch .long true) emArmed (fun _ => true)) = true := by
  decide

theorem witness_DecoderOperationsFrame :
    emArmed.buf.wf = true ∧ Instr.family (.emBitStore true) = .emDecoder ∧
      after (.emBitStore true) emArmed (fun t => t.buf == [(0, 0x10)]) = true ∧ Instr.family .fdxCrccheck = .fdxDecoder ∧
      after (.fdxSeek true) fdxArmed (fun _ => true) = true := by decide

theorem witness_EmLongAndShort :
    ({ emArmed with ones := 8 } : State).ones.toNat < 9 ∧
      (let s : State := { emArmed with ones := 9, byteCtr := 12, bitCtr := 7, longSeen := true, emHalf := true }
       s.ones.toNat = 9 ∧ s.byteCtr.toNat ≤ 12 ∧ s.bitCtr.toNat ≤ 7 ∧ s.longSeen = true ∧ s.emHalf = true) ∧
      emArmed.longSeen = false ∧
      (let s : State := { emArmed with longSeen := true }
       s.longSeen = true ∧ s.emHalf = false) ∧
      (let s : State := { emArmed with ones := 8, longSeen := true, emHalf := true }
       s.longSeen = true ∧ s.emHalf = true ∧ s.ones.toNat < 9) := by decide

theorem witness_EmBitSeekCountsOnes : ({ emArmed with ones := 8 } : State).ones.toNat < 9 := by decide

theorem witness_EmBitStoreFillsTheRow :
    (let s : State := { emArmed with buf := frameEmf, byteCtr := 12, bitCtr := 1 }
     s.buf.wf = true ∧ s.byteCtr.toNat ≤ 12 ∧ s.bitCtr.toNat ≤ 7 ∧ 1 ≤ s.bitCtr.toNat) ∧
    (let s : State := { emArmed with buf := frameEmf, byteCtr := 10, bitCtr := 0 }
     s.buf.wf = true ∧ s.byteCtr.toNat ≤ 12 ∧ s.bitCtr.toNat ≤ 7 ∧ s.bitCtr.toNat = 0) := by decide

theorem witness_EmRowendChecksTheRow :
    ({ emArmed with byteCtr := 9 } : State).byteCtr.toNat ≤ 9 ∧ ({ emArmed with byteCtr := 10 } : State).byteCtr.toNat = 10 := by
  decide

theorem witness_EmFrameendJudgesTheFrame :
    ((∀ r, r < 10 → emPassed.failMap.getLsbD r = false) ∧
      (∀ c, 1 ≤ c → c ≤ 4 →
        oddOnes ((List.range 10).map (fun r => (emPassed.buf.read r).getLsbD c)) = (emPassed.buf.read 10).getLsbD c)) ∧
    ({ emPassed with failMap := 0x200 } : State).failMap.getLsbD 9 ≠ false := by
  refine ⟨⟨by decide, fun c _ h => ?_⟩, by decide⟩
  match c, h with
  | 0, _ | 1, _ | 2, _ | 3, _ | 4, _ => decide

theorem witness_FdxLongAndShort :
    (fdxArmed.byteCtr.toNat ≤ 12 ∧ fdxArmed.bitCtr.toNat = 10 ∧ fdxArmed.pulse2 = false) ∧
      ({ fdxArmed with byteCtr := 12, bitCtr := 8 } : State).bitCtr.toNat = 8 ∧ fdxPassed.pulse2 = true ∧
      (fdxLast.pulse2 = false ∧ fdxLast.byteCtr.toNat ≤ 12 ∧ fdxLast.bitCtr.toNat < 8) := by decide

theorem witness_FdxBitShiftsAndDispatches :
    (fdxArmed.byteCtr.toNat ≤ 12 ∧ fdxArmed.bitCtr.toNat = 10) ∧ (fdxLast.byteCtr.toNat ≤ 12 ∧ fdxLast.bitCtr.toNat < 8) ∧
      (fdxPassed.byteCtr.toNat ≤ 12 ∧ fdxPassed.bitCtr.toNat = 8) := by decide

/-- An FDX-B frame before the marker of octet 11. -/
def fdxMarkerNext : State := { fdxLast with byteCtr := 11, bitCtr := 8, tenZ := 0x0100 }

theorem witness_FdxSeekAndMarker :
    (fdxMarkerNext.bitCtr.toNat = 8 ∧ fdxMarkerNext.byteCtr.toNat ≤ 11 ∧ fdxMarkerNext.byteCtr.toNat = 11) ∧
      ControlInv fdxMarkerNext ∧ fdxMarkerNext.protocol = .fdxb ∧ fdxMarkerNext.flag ≠ .integrityPassed :=
  ⟨by decide, by constructor <;> decide, by decide⟩

theorem witness_FdxDataFillsTheOctet :
    (fdxLast.buf.wf = true ∧ fdxLast.byteCtr.toNat = 12 ∧ fdxLast.bitCtr.toNat = 7) ∧
      (let s : State := { fdxLast with byteCtr := 9, buf := frameFxb }
       s.buf.wf = true ∧ s.byteCtr.toNat = 9 ∧ s.bitCtr.toNat = 7) ∧
      (let s : State := { fdxLast with byteCtr := 10, buf := frameFxb }
       s.buf.wf = true ∧ s.byteCtr.toNat ≤ 12 ∧ s.bitCtr.toNat < 8 ∧
        ¬ (s.bitCtr.toNat = 7 ∧ (s.byteCtr.toNat = 9 ∨ s.byteCtr.toNat = 12))) := by decide

theorem witness_FdxCrccheckJudgesThePayload :
    (crc16 [0xD5, 0xC4, 0xB3, 0xA2, 0x01, 0x45, 0x00, 0x80]).toNat = 256 * (0xD9#8).toNat + (0x5C#8).toNat ∧
      (crc16 [0xD5, 0xC4, 0xB3, 0xA2, 0x01, 0x45, 0x00, 0x80]).toNat ≠ 256 * (0x59#8).toNat + (0x5C#8).toNat := by
  decide +kernel

theorem witness_FdxFrameendPasses :
    ControlInv fdxLast ∧ fdxLast.protocol = .fdxb ∧ fdxLast.byteCtr.toNat = 12 ∧ fdxLast.bitCtr.toNat = 7 :=
  ⟨fdxLast_inv, by decide⟩

theorem witness_CrcDetectsEverySingleBitFlip :
    ((crc16 (memRead 0 8 fdxLast)).toNat = 256 * (fdxLast.buf.read 9).toNat + (fdxLast.buf.read 8).toNat) ∧
      setsBit fdxLast.buf (fdxLast.buf.write 9 (withBit (fdxLast.buf.read 9) 7 true)) 9 7 true ∧
      setsBit fdxLast.buf (fdxLast.buf.write 12 (withBit (fdxLast.buf.read 12) 7 true)) 12 7 true :=
  ⟨by decide +kernel,
    ⟨by decide, fun j n => readBit_after_write _ 9 7 j n true (by decide) (by decide)⟩,
    ⟨by decide, fun j n => readBit_after_write _ 12 7 j n true (by decide) (by decide)⟩⟩

theorem witness_UnreachableCountersFault :
    9 < ({ emArmed with ones := 10 } : State).ones.toNat ∧
      (let s : State := { emArmed with ones := 15, longSeen := true, emHalf := true }
       s.longSeen = true ∧ s.emHalf = true ∧ 9 < s.ones.toNat) ∧
      ({ fdxArmed with bitCtr := 9 } : State).bitCtr.toNat = 9 ∧ 10 < ({ fdxArmed with bitCtr := 11 } : State).bitCtr.toNat ∧
      (let s : State := { fdxArmed with byteCtr := 13, bitCtr := 0 }
       ¬ (s.byteCtr.toNat ≤ 12 ∧ s.bitCtr.toNat ≤ 7)) ∧
      (let s : State := { fdxArmed with bitCtr := 8 }
       ¬ (s.byteCtr.toNat ≤ 12 ∧ s.bitCtr.toNat ≤ 7)) := by decide

theorem witness_AntennaOperationsAndShut : emArmed.sess ≠ .idle ∧ State.reset.sess = .idle := by decide

theorem witness_step_next : ControlInv emPassed ∧ stepsOn emPassed := ⟨emPassed_inv, _, rfl⟩

theorem witness_AntennasMutuallyExclusive : ControlInv emPassed ∧ ∃ t, step emPassed = .next t := witness_step_next

theorem witness_ReadAcceptance :
    (State.reset.sess = .idle ∧ ((1#2 : BitVec 2) = 1#2 ∨ (1#2 : BitVec 2) = 2#2) ∧ params.gateMargin.toNat ≤ (25#32).toNat ∧
      (25#32).toNat ≤ (25#32).toNat) ∧ ¬ (emArmed.sess = .idle) := by decide

theorem witness_ReadAcceptArms : (1#2 = 1#2 ∨ 1#2 = 2#2) ∧ (2#2 = 1#2 ∨ 2#2 = 2#2) := by decide

/-- `emArmed` with a count of milliseconds, of edges, and a flag. -/
def counted (ms pulses : U32) (flag : Flag) (sess : Sess) : State :=
  { emArmed with msCount := ms, pulseCount := pulses, flag := flag, sess := sess }

theorem witness_TickCheckGates :
    (let s := counted 98 0 .inProgress .check
     s.sess = .check ∧ params.gateMargin.toNat ≤ s.cd.toNat ∧ s.msCount.toNat < s.rt.toNat ∧ s.msCount.toNat + 1 < s.cd.toNat) ∧
    (let s := counted 99 75 .integrityPassed .check
     s.cd.toNat ≤ s.msCount.toNat + 1 ∧ s.pulseCount.toNat ≤ s.cd.toNat - params.gateMargin.toNat) ∧
    (let s := counted 99 76 .integrityPassed .check
     s.cd.toNat ≤ s.msCount.toNat + 1 ∧ s.cd.toNat - params.gateMargin.toNat < s.pulseCount.toNat ∧ s.flag = .integrityPassed) ∧
    (let s : State := { counted 99 76 .inProgress .check with rt := 100 }
     s.cd.toNat ≤ s.msCount.toNat + 1 ∧ s.cd.toNat - params.gateMargin.toNat < s.pulseCount.toNat ∧ s.flag ≠ .integrityPassed ∧
      s.msCount.toNat < s.rt.toNat ∧ s.rt.toNat ≤ s.msCount.toNat + 1) ∧
    (let s := counted 99 76 .inProgress .check
     s.cd.toNat ≤ s.msCount.toNat + 1 ∧ s.cd.toNat - params.gateMargin.toNat < s.pulseCount.toNat ∧ s.flag ≠ .integrityPassed ∧
      s.msCount.toNat + 1 < s.rt.toNat) := by decide

theorem witness_TickWaitPolls :
    (let s := counted 199 76 .integrityPassed .wait
     s.sess = .wait ∧ s.msCount.toNat < s.rt.toNat ∧ s.flag = .integrityPassed) ∧
    (let s := counted 199 76 .inProgress .wait
     s.flag ≠ .integrityPassed ∧ s.msCount.toNat < s.rt.toNat ∧ s.rt.toNat ≤ s.msCount.toNat + 1) ∧
    (let s := counted 198 76 .passedPending .wait
     s.flag ≠ .integrityPassed ∧ s.msCount.toNat + 1 < s.rt.toNat) := by decide

theorem witness_SessionOperationsFrame :
    (after .tick emPassed (fun _ => true) && after (.finish .noTag) emPassed (fun _ => true) && after .shut State.reset (fun _ => true) &&
      after (.antEnable 1) State.reset (fun _ => true) && after (.rdbuf 3) emPassed (fun _ => true) &&
      after .emHex emPassed (fun _ => true)) = true := by decide

theorem witness_SessionReadsOnlyFlagAndPulseCount :
    (let s := emPassed
     let u : State := { emPassed with lastEdge := 7, ones := 3, buf := frameEmf }
     s ≠ u ∧ s.flag = u.flag ∧ s.pulseCount = u.pulseCount ∧ s.sess = u.sess ∧ s.msCount = u.msCount ∧ s.cd = u.cd ∧ s.rt = u.rt ∧
      s.armed = u.armed ∧ s.outcome = u.outcome ∧ s.done = u.done ∧ s.antC = u.antC ∧ s.antD = u.antD ∧
      after .tick s (fun t => t.sess == .idle) = true ∧ after .tick u (fun t => t.sess == .idle) = true) := by decide

theorem witness_OnlyTickOrResetEndsASession :
    ControlInv emPassed ∧ emPassed.sess ≠ .idle ∧ after .tick emPassed (fun t => t.sess == .idle && t.outcome == .tagDecoded) = true ∧
      ControlInv fdxLast ∧ after .tick fdxLast (fun t => t.sess == .idle && t.outcome == .noTag) = true ∧
      after .shut fdxLast (fun _ => true) = true :=
  ⟨emPassed_inv, by decide, by decide, fdxLast_inv, by decide, by decide⟩

theorem witness_SessionEndsByReadTime :
    ControlInv fdxLast ∧ fdxLast.sess ≠ .idle ∧ (∀ i ∈ [Instr.shut, .tick], i.isEvent = true ∧ i ≠ .reset) ∧
      fdxLast.rt.toNat - fdxLast.msCount.toNat ≤ [Instr.shut, .tick].count .tick :=
  ⟨fdxLast_inv, by decide, by decide, by decide⟩

theorem witness_StepKeepsTheControlInvariant : ControlInv emPassed ∧ ∃ t, step emPassed = .next t := witness_step_next

theorem witness_StepKeepsTheInvariant : Inv emPassed ∧ ∃ t, step emPassed = .next t :=
  ⟨⟨emPassed_inv, emPassed_frame⟩, witness_step_next.2⟩

theorem witness_NoStepStops : ControlInv fdxLast := fdxLast_inv

theorem witness_PassedMeansValidFrame :
    (Inv emPassed ∧ ∃ t, step emPassed = .next t ∧ t.flag = .integrityPassed ∧ t.protocol = .em4100) ∧
    (Inv fdxPassed ∧ ∃ t, step fdxPassed = .next t ∧ t.flag = .integrityPassed ∧ t.protocol = .fdxb) ∧
    (∃ t, step { emPassed with events := [0x400000000000000000] } = .next t ∧ t.outcome = .tagDecoded) :=
  ⟨⟨⟨emPassed_inv, emPassed_frame⟩, _, rfl, by decide⟩, ⟨⟨fdxPassed_inv, fdxPassed_frame⟩, _, rfl, by decide⟩,
    _, rfl, by decide⟩

theorem witness_FlagRegressesOnlyByResync :
    (Instr.isEvent (.edge .a true 9000) = true ∧ ControlInv fdxLast ∧
      after (.edge .a true 9000) fdxLast (fun t => decide (flagRank t.flag < flagRank fdxLast.flag)) = true) ∧
    (ControlInv emPassed ∧ after (.edge .a true 9000) emPassed (fun t => t.flag == .integrityPassed) = true ∧
      emPassed.flag = .integrityPassed) :=
  ⟨⟨by decide, fdxLast_inv, by decide⟩, emPassed_inv, by decide, by decide⟩

theorem witness_EmFrameAcceptedIffParityHolds :
    (let s : State := { emArmed with ones := 9 }
     s.buf.wf = true ∧ s.ones = 9#4 ∧ s.byteCtr = 0#4 ∧ s.bitCtr = 4#4 ∧ s.rowPar = false ∧ s.failMap = 0#11 ∧
      s.flag = .inProgress) ∧
      (List.replicate 55 false).length = 55 ∧ emBodyValid (List.replicate 55 false) = true ∧
      emBodyValid (true :: List.replicate 54 false) = false := by decide

theorem witness_EmSingleBitFlipDetected :
    (List.replicate 55 false).length = 55 ∧ emBodyValid (List.replicate 55 false) = true ∧
      (let s : State := { emArmed with ones := 9 }
       s.buf.wf = true ∧ s.ones = 9#4 ∧ s.byteCtr = 0#4 ∧ s.bitCtr = 4#4 ∧ s.rowPar = false ∧ s.failMap = 0#11 ∧
        s.flag = .inProgress) ∧
      (0 < 9 ∧ 9 < 10 ∧ 0 < 3 ∧ 3 < 4) := by decide

theorem witness_EmFrameRoundTrip :
    ([0, 15, 0, 1, 0, 2, 0, 3, 0, 4] : List (BitVec 4)).length = 10 ∧ emArmed.buf.wf = true ∧ emArmed.protocol = .em4100 ∧
      emArmed.ones = 0#4 ∧ emArmed.byteCtr = 0#4 ∧ emArmed.bitCtr = 4#4 ∧ emArmed.rowPar = false ∧ emArmed.failMap = 0#11 ∧
      emArmed.longSeen = false ∧ emArmed.emHalf = false ∧ emArmed.flag = .inProgress := by decide

theorem witness_FdxFrameRoundTrip :
    (let octets : List Byte := [0xD5, 0xC4, 0xB3, 0xA2, 0x01, 0x45, 0x00, 0x80, 0x5C, 0xD9, 0x01, 0x23, 0x45]
     octets.length = 13 ∧
      (crc16 (octets.take 8)).toNat = 256 * (octets.getD 9 0#8).toNat + (octets.getD 8 0#8).toNat) ∧
      fdxArmed.buf.wf = true ∧ fdxArmed.protocol = .fdxb ∧ fdxArmed.byteCtr = 0#4 ∧ fdxArmed.bitCtr = 10#4 ∧
      fdxArmed.tenZ = 0xFFFF#16 ∧ fdxArmed.pulse2 = false ∧ fdxArmed.flag = .inProgress := by decide +kernel

theorem witness_LineCodesReadBack :
    (let s : State := { emArmed with longSeen := true }
     s.protocol = .em4100 ∧ s.flag ≠ .integrityPassed ∧ s.longSeen = true ∧ s.emHalf = false) ∧
    (fdxArmed.protocol = .fdxb ∧ fdxArmed.flag ≠ .integrityPassed ∧ fdxArmed.pulse2 = false ∧ fdxArmed.byteCtr.toNat ≤ 12 ∧
      fdxArmed.bitCtr.toNat = 10) ∧
    (let s : State := { fdxLast with byteCtr := 10 }
     s.flag ≠ .integrityPassed ∧ s.pulse2 = false ∧ s.bitCtr.toNat = 7 ∧ s.byteCtr.toNat ≠ 9 ∧ s.byteCtr.toNat ≠ 12) ∧
    (let s : State := { fdxLast with byteCtr := 10, bitCtr := 8 }
     s.flag ≠ .integrityPassed ∧ s.pulse2 = false ∧ s.bitCtr.toNat = 8) := by decide

theorem witness_EdgeTraceFeedsTheDecoder :
    [(512#32, true), (256#32, false)] ≠ [] ∧ emArmed.armed = true ∧
      ∃ t, decodePulses ([(512#32, true), (256#32, false)].map fun p =>
        (if emArmed.protocol = .em4100 then classEm params p.1 else classFdx params p.1, p.2)) emArmed = .ok t :=
  ⟨by decide, by decide, _, rfl⟩

theorem witness_FdxLevelIsUnused :
    fdxArmed.protocol = .fdxb ∧
      (∀ i ∈ [Instr.edge .a true 128, .tick], i.isEvent = true ∧ ∀ c cd rt, i ≠ .read .em4100 c cd rt) ∧
      List.Forall₂ (fun i j => i = j ∨ ∃ line level other now, i = .edge line level now ∧ j = .edge line other now)
        [Instr.edge .a true 128, .tick] [Instr.edge .a false 128, .tick] :=
  ⟨by decide, by simp [Instr.isEvent],
    .cons (.inr ⟨_, _, _, _, rfl, rfl⟩) (.cons (.inl rfl) .nil)⟩

theorem witness_HeaderNeverSeenInAssemble :
    ControlInv fdxLast ∧ ∃ t, step fdxLast = .next t ∧ t.protocol = .fdxb ∧ t.bitCtr.toNat ≤ 8 :=
  ⟨fdxLast_inv, _, rfl, by decide⟩

theorem witness_CycleRunsInOrder :
    (let c : CycleInputs := ⟨true, none, true, some .shut⟩
     c.reset = true ∧ c.edge = none ∧ c.tick = true ∧ c.command = some .shut ∧
      ([.reset] ++ [] ++ [.tick] ++ [.shut] : List Instr) ≠ []) ∧
    (let c : CycleInputs := ⟨false, some (.a, true, 0), false, some (.rdbuf 15)⟩
     c.reset = false ∧ c.edge = some (.a, true, 0) ∧ c.tick = false ∧ c.command = some (.rdbuf 15)) ∧
    (let c : CycleInputs := ⟨false, none, false, none⟩
     c.reset = false ∧ c.edge = none ∧ c.tick = false ∧ c.command = none ∧ ([] ++ [] ++ [] ++ [] : List Instr) = []) ∧
    (⟨false, none, false, some (.read .fdxb 1 25 25)⟩ : CycleInputs).command = some (.read .fdxb 1 25 25) ∧
    after .tick emArmed (fun _ => true) = true := by decide

theorem witness_OperationsOutsideTheirConditions :
    (9 ≤ ({ emArmed with ones := 9 } : State).ones.toNat) ∧ (10 < ({ emArmed with byteCtr := 11 } : State).byteCtr.toNat) ∧
      ((0#2 ≠ 1#2 ∧ 0#2 ≠ 2#2) ∧ (3#2 ≠ 1#2 ∧ 3#2 ≠ 2#2)) := by decide

/-- A cycle with a RESET, a TICK and a SHUT: the SHUT sees the idle block (rule R81). -/
theorem test_cycle_reset_tick_shut :
    (match cycle ⟨true, none, true, some .shut⟩ emArmed with
      | .next t => t == { State.reset with resp := .ok }
      | .fault _ => false
      | .refused _ => false) = true := by decide

end Sys2Proof.Tests
end

section
/-! Every step keeps `ControlInv` (rule R46). The invariant falls into a session part and, for the protocol in use, a decoder
part; EDGE moves only the decoder's registers and TICK, READ and SHUT only the session's (rule R47), so each half is kept once. -/

namespace Sys2Proof.Machine

/-! ## The two halves of the control invariant -/

/-- The clauses of `ControlInv` about the session, the antennas and the result (rule R40, rule R46, rule R184). -/
structure SessionInv (s : State) : Prop where
  armedIff : s.armed = true ↔ s.sess ≠ .idle
  circuitLegal : s.circuit ≤ 2#2 ∧ (s.sess ≠ .idle → legalCircuit s.circuit)
  antennas : (s.antC, s.antD) = if s.sess = .idle then (true, true) else (decide (s.circuit ≠ 1#2), decide (s.circuit = 1#2))
  msLe : s.msCount ≤ s.rt
  durations : s.sess ≠ .idle → params.gateMargin ≤ s.cd ∧ s.cd ≤ s.rt
  sessTime : (s.sess = .check → s.msCount < s.cd) ∧ (s.sess = .wait → s.cd ≤ s.msCount ∧ s.msCount < s.rt)
  result : (s.done = true → s.sess = .idle) ∧ (s.outcome = .tagDecoded → s.done = true ∧ s.flag = .integrityPassed)

/-- The clauses of `ControlInv` about the decode registers of an EM4100 session (rule R46, rule R129). -/
structure EmDecoderInv (s : State) : Prop where
  bufWf : s.buf.wf = true
  byteCtrLe : s.byteCtr ≤ 10#4
  bitCtrLe : s.bitCtr ≤ 4#4
  onesLe : s.ones ≤ 9#4
  flagStable : s.flag = .inProgress ∨ s.flag = .integrityPassed
  failMapTen : s.failMap.getLsbD 10 = false
  seek : s.ones < 9#4 →
    s.byteCtr = 0#4 ∧ s.bitCtr = 4#4 ∧ s.rowPar = false ∧ s.failMap = 0#11 ∧ s.flag = .inProgress
  gate : s.longSeen = false → s.ones = 0#4 ∧ s.emHalf = false
  passed : s.flag = .integrityPassed →
    s.ones = 9#4 ∧ s.byteCtr = 10#4 ∧ s.bitCtr = 0#4 ∧ s.rowPar = false ∧ s.failMap = 0#11
  fdxQuiet : s.tenZ = 0xFFFF#16 ∧ s.pulse2 = false

/-- The clauses of `ControlInv` about the decode registers of an FDX-B session (rule R46, rule R162, rule R163). -/
structure FdxDecoderInv (s : State) : Prop where
  bufWf : s.buf.wf = true
  byteCtrLe : s.byteCtr ≤ 12#4
  bitCtrRange : s.bitCtr ≤ 8#4 ∨ s.bitCtr = 10#4
  flagStable : s.flag = .inProgress ∨ s.flag = .integrityPassed ∨ s.flag = .passedPending
  emQuiet : s.ones = 0#4 ∧ s.rowPar = false ∧ s.failMap = 0#11 ∧ s.longSeen = false ∧ s.emHalf = false
  seekZero : s.bitCtr = 10#4 → s.byteCtr = 0#4
  pending : s.flag = .inProgress ↔ s.byteCtr < 9#4 ∨ (s.byteCtr = 9#4 ∧ s.bitCtr < 8#4)
  passed : s.flag = .integrityPassed ↔ s.byteCtr = 12#4 ∧ s.bitCtr = 8#4
  window : s.bitCtr ≤ 8#4 → s.tenZ.getLsbD s.bitCtr.toNat = true

theorem ControlInv.session {s : State} (h : ControlInv s) : SessionInv s := { h with }

/-- Under EM4100 the control invariant is its session half and its EM4100 half. -/
theorem controlInv_iff_em {s : State} (hp : s.protocol = .em4100) : ControlInv s ↔ SessionInv s ∧ EmDecoderInv s := by
  have hne : s.protocol ≠ .fdxb := by simp [hp]
  constructor
  · intro h
    refine ⟨h.session, { h with
      byteCtrLe := (h.emCounters hp).1
      bitCtrLe := (h.emCounters hp).2
      flagStable := ?_
      seek := h.emSeek hp
      gate := h.emGate
      passed := h.emPassed hp
      fdxQuiet := h.fdxQuiet hp }⟩
    simpa [hne] using h.flagStable
  · rintro ⟨hs, hd⟩
    exact { hs, hd with
      byteCtrLe := BitVec.le_trans hd.byteCtrLe (by decide)
      emCounters := fun _ => ⟨hd.byteCtrLe, hd.bitCtrLe⟩
      flagStable := hd.flagStable.imp_right .inl
      emSeek := fun _ => hd.seek
      emGate := hd.gate
      emPassed := fun _ => hd.passed
      fdxQuiet := fun _ => hd.fdxQuiet
      fdxBitCtr := fun hf => absurd hf hne
      emQuiet := fun hf => absurd hf hne
      fdxSeekZero := fun hf => absurd hf hne
      fdxPending := fun hf => absurd hf hne
      fdxPassed := fun hf => absurd hf hne
      fdxWindow := fun hf => absurd hf hne }

/-- Under FDX-B the control invariant is its session half and its FDX-B half. -/
theorem controlInv_iff_fdx {s : State} (hp : s.protocol = .fdxb) : ControlInv s ↔ SessionInv s ∧ FdxDecoderInv s := by
  have hne : s.protocol ≠ .em4100 := by simp [hp]
  constructor
  · intro h
    refine ⟨h.session, { h with
      bitCtrRange := h.fdxBitCtr hp
      flagStable := ?_
      emQuiet := h.emQuiet hp
      seekZero := h.fdxSeekZero hp
      pending := h.fdxPending hp
      passed := h.fdxPassed hp
      window := h.fdxWindow hp }⟩
    simpa [hp] using h.flagStable
  · rintro ⟨hs, hd⟩
    obtain ⟨hones, -, hfail, -, hhalf⟩ := hd.emQuiet
    exact { hs, hd with
      fdxBitCtr := fun _ => hd.bitCtrRange
      onesLe := by simp [hones]
      flagStable := by simpa [hp] using hd.flagStable
      failMapTen := by simp [hfail]
      emGate := fun _ => ⟨hones, hhalf⟩
      emQuiet := fun _ => hd.emQuiet
      fdxSeekZero := fun _ => hd.seekZero
      fdxPending := fun _ => hd.pending
      fdxPassed := fun _ => hd.passed
      fdxWindow := fun _ => hd.window
      emCounters := fun hf => absurd hf hne
      emSeek := fun hf => absurd hf hne
      emPassed := fun hf => absurd hf hne
      fdxQuiet := fun hf => absurd hf hne }

/-- The pending trace and the last response take no part in the control invariant. -/
theorem ControlInv.withTrace {s : State} (h : ControlInv s) (es : List EventWord) (r : Resp) :
    ControlInv { s with events := es, resp := r } := { h with }

theorem ControlInv.withResponse {s : State} (h : ControlInv s) (r : Resp) : ControlInv (respond r s) := { h with }

/-! ## EDGE: only the decode registers move -/

/-- `s` with the decode registers of `t`, the ones an EDGE may write (rule R47). -/
def State.withDecodeOf (s t : State) : State :=
  { s with
    lastEdge := t.lastEdge, pulseCount := t.pulseCount, byteCtr := t.byteCtr, bitCtr := t.bitCtr, flag := t.flag
    ones := t.ones, rowPar := t.rowPar, failMap := t.failMap, longSeen := t.longSeen, emHalf := t.emHalf
    tenZ := t.tenZ, pulse2 := t.pulse2, buf := t.buf }

/-- While no frame has passed there is no TAG_DECODED to lose, so the session half holds whatever the decoder does. -/
theorem SessionInv.withDecodeOf {s : State} (h : SessionInv s) (hf : s.flag ≠ .integrityPassed) (t : State) :
    SessionInv (s.withDecodeOf t) :=
  { h with result := ⟨h.result.1, fun ho => absurd (h.result.2 ho).2 hf⟩ }

/-! ### EM4100 -/

theorem resyncEm_keeps_emDecoderInv {s : State} (h : EmDecoderInv s) : EmDecoderInv (resyncEm s) :=
  { h with
    byteCtrLe := by simp
    bitCtrLe := by simp
    onesLe := by simp
    flagStable := by simp
    failMapTen := by simp
    seek := by simp
    gate := by simp
    passed := by simp }

/-- The header count moves only at the start of a frame and stops at nine (rule R124). -/
theorem emBitSeek_keeps_emDecoderInv {b : Bool} {s : State} (h : EmDecoderInv s) (hones : s.ones < 9#4)
    (hlong : s.longSeen = true) : EmDecoderInv (emBitSeek b s) ∧ emBitSeek b s = s.withDecodeOf (emBitSeek b s) := by
  obtain ⟨-, -, -, -, hflag⟩ := h.seek hones
  have withOnes : ∀ n, n ≤ 9#4 → EmDecoderInv { s with ones := n } := fun n hn =>
    { h with
      onesLe := hn
      seek := fun _ => h.seek hones
      gate := by simp [hlong]
      passed := by simp [hflag] }
  cases b with
  | false => exact ⟨withOnes 0 (by decide), rfl⟩
  | true => exact ⟨withOnes (s.ones + 1) (by bv_omega), rfl⟩

/-- At row 10 the frame ends with the counters where they are and no failed row, or the decoder resyncs (rule R127). -/
theorem emFrameend_keeps_emDecoderInv {s : State} (h : EmDecoderInv s) (hones : s.ones = 9#4) (hbyte : s.byteCtr = 10#4)
    (hbit : s.bitCtr = 0#4) (hpar : s.rowPar = false) :
    EmDecoderInv (emFrameend s) ∧ emFrameend s = s.withDecodeOf (emFrameend s) := by
  rcases emFrameend_cases s with ⟨-, he⟩ | ⟨-, he⟩ <;> rw [he]
  · exact ⟨{ h with
      flagStable := .inr rfl
      failMapTen := by simp
      seek := by simp [hones]
      passed := fun _ => ⟨hones, hbyte, hbit, hpar, rfl⟩ }, rfl⟩
  · exact ⟨resyncEm_keeps_emDecoderInv h, rfl⟩

/-- A data row's check writes a bit of `failMap` below bit 10 (rule R126). -/
theorem failMapAfterRow_getLsbD_ten (b : Bool) (s : State) (h : s.byteCtr ≤ 9#4) :
    (failMapAfterRow b s).getLsbD 10 = s.failMap.getLsbD 10 := by
  have hlt : s.byteCtr.toNat < 10 := by bv_omega
  unfold failMapAfterRow
  split
  · rw [withBit_getLsbD _ _ _ _ (by omega), if_neg (by omega)]
  · rfl

theorem emRowend_keeps_emDecoderInv {b : Bool} {s : State} (h : EmDecoderInv s) (hones : s.ones = 9#4)
    (hbit : s.bitCtr = 0#4) (hflag : s.flag ≠ .integrityPassed) :
    EmDecoderInv (emRowend b s) ∧ emRowend b s = s.withDecodeOf (emRowend b s) := by
  unfold emRowend
  split
  · next hrow =>
    exact ⟨{ h with
      byteCtrLe := by simp only; bv_omega
      bitCtrLe := by simp
      failMapTen := (failMapAfterRow_getLsbD_ten b s hrow).trans h.failMapTen
      seek := by simp [hones]
      passed := fun hf => absurd hf hflag }, rfl⟩
  · next hrow =>
    have hbyte : s.byteCtr = 10#4 := by have := h.byteCtrLe; bv_omega
    have hcleared : EmDecoderInv { s with rowPar := false } :=
      { h with seek := by simp [hones], passed := fun hf => absurd hf hflag }
    exact emFrameend_keeps_emDecoderInv hcleared hones hbyte hbit rfl

theorem emBitStore_keeps_emDecoderInv {b : Bool} {s t : State} (h : EmDecoderInv s) (hones : s.ones = 9#4)
    (hflag : s.flag ≠ .integrityPassed) (ht : emBitStore b s = .ok t) : EmDecoderInv t ∧ t = s.withDecodeOf t := by
  rcases emBitStore_cases b s with ⟨-, he⟩ | ⟨m, hm, hi, -, hmove⟩
  · simp [he] at ht
  have hstored : EmDecoderInv { s with buf := m } :=
    { h with bufWf := by simpa [hm] using Memory.wf_write _ _ _ (by omega) h.bufWf }
  rcases hmove with ⟨hpos, he⟩ | ⟨hzero, he⟩ <;> obtain rfl := Except.ok.inj (he.symm.trans ht)
  · exact ⟨{ hstored with
      bitCtrLe := by have := h.bitCtrLe; simp only; bv_omega
      seek := by simp [hones]
      passed := fun hf => absurd hf hflag }, rfl⟩
  · exact emRowend_keeps_emDecoderInv hstored hones hzero hflag

theorem emBit_keeps_emDecoderInv {b : Bool} {s t : State} (h : EmDecoderInv s) (hlong : s.longSeen = true)
    (hflag : s.flag ≠ .integrityPassed) (ht : emBit b s = .ok t) : EmDecoderInv t ∧ t = s.withDecodeOf t := by
  rcases emBit_cases b s with ⟨hones, he⟩ | ⟨hones, he⟩ | ⟨-, he⟩ <;> rw [he] at ht
  · obtain rfl := Except.ok.inj ht
    exact emBitSeek_keeps_emDecoderInv h hones hlong
  · exact emBitStore_keeps_emDecoderInv h hones hflag ht
  · cases ht

/-- The half toggle is free once a LONG has been seen (rule R122, rule R123). -/
theorem EmDecoderInv.withHalf {s : State} (h : EmDecoderInv s) {seen : Bool} (hseen : seen = true) (half : Bool) :
    EmDecoderInv { s with longSeen := seen, emHalf := half } := { h with gate := by simp [hseen] }

/-- Everything EM.SHORT can do: wait for a LONG, keep the half, or decode the pair (rule R123). -/
theorem emShort_cases (level : Bool) (s : State) :
    (s.longSeen = false ∧ emShort level s = .ok s) ∨
    (s.longSeen = true ∧ s.emHalf = false ∧ emShort level s = .ok { s with emHalf := true }) ∨
    (s.longSeen = true ∧ s.emHalf = true ∧ emShort level s = emBit level { s with emHalf := false }) := by
  unfold emShort
  cases s.longSeen <;> cases s.emHalf <;> simp

theorem emStep_keeps_emDecoderInv {cls : PulseClass} {level : Bool} {s t : State} (h : EmDecoderInv s)
    (hflag : s.flag ≠ .integrityPassed) (ht : emStep cls level s = .ok t) : EmDecoderInv t ∧ t = s.withDecodeOf t := by
  have bit : ∀ seen, seen = true → emBit level { s with longSeen := seen, emHalf := false } = .ok t →
      EmDecoderInv t ∧ t = s.withDecodeOf t := fun seen hseen =>
    emBit_keeps_emDecoderInv (s := { s with longSeen := seen, emHalf := false }) (h.withHalf hseen false) hseen hflag
  cases cls with
  | invalid =>
    obtain rfl := Except.ok.inj ht
    exact ⟨resyncEm_keeps_emDecoderInv h, rfl⟩
  | long => exact bit true rfl ht
  | short =>
    rcases emShort_cases level s with ⟨-, he⟩ | ⟨hlong, -, he⟩ | ⟨hlong, -, he⟩ <;> rw [emStep, he] at ht
    · obtain rfl := Except.ok.inj ht
      exact ⟨h, rfl⟩
    · obtain rfl := Except.ok.inj ht
      exact ⟨h.withHalf hlong true, rfl⟩
    · exact bit s.longSeen hlong ht

/-! ### FDX-B -/

theorem resyncFdx_keeps_fdxDecoderInv {s : State} (h : FdxDecoderInv s) : FdxDecoderInv (resyncFdx s) :=
  { h with
    byteCtrLe := by simp
    bitCtrRange := by simp
    flagStable := by simp
    seekZero := by simp
    pending := by simp
    passed := by simp
    window := by simp }

/-- The seek phase starts ASSEMBLE only on a header, whose closing 1 is then bit 0 of the window (rule R155). -/
theorem fdxSeek_keeps_fdxDecoderInv {hdr : Bool} {w : BitVec 16} {s : State} (h : FdxDecoderInv s)
    (hbit : s.bitCtr = 10#4) (hw : hdr = true → w.getLsbD 0 = true) :
    FdxDecoderInv (fdxSeek hdr { s with tenZ := w }) := by
  have hbyte := h.seekZero hbit
  have hflag : s.flag = .inProgress := h.pending.2 (.inl (by simp [hbyte]))
  cases hdr with
  | false => exact { h with window := by simp [fdxSeek, hbit] }
  | true => exact { h with
      byteCtrLe := by simp [fdxSeek]
      bitCtrRange := by simp [fdxSeek]
      seekZero := by simp [fdxSeek]
      pending := by simp [fdxSeek, hflag]
      passed := by simp [fdxSeek, hflag]
      window := fun _ => hw rfl }

/-- A data bit moves the window and `bitCtr` together; the verdict comes with the last bit of octet 9, success with that of
octet 12 (rule R156, rule R158, rule R160). -/
theorem fdxData_keeps_fdxDecoderInv {b : Bool} {w : BitVec 16} {s t : State} (h : FdxDecoderInv s)
    (hbit : s.bitCtr < 8#4) (hw : w.getLsbD (s.bitCtr.toNat + 1) = true)
    (ht : fdxData b { s with tenZ := w } = .ok t) : FdxDecoderInv t ∧ t = s.withDecodeOf t := by
  have hnext : (s.bitCtr + 1).toNat = s.bitCtr.toNat + 1 := by bv_omega
  have hwindow : s.bitCtr + 1 ≤ 8#4 → w.getLsbD (s.bitCtr + 1).toNat = true := fun _ => by rw [hnext, hw]
  rcases fdxData_cases b { s with tenZ := w } with ⟨-, he⟩ | ⟨n, hn, hi, -, hend⟩
  · simp [he] at ht
  have hstored : FdxDecoderInv { s with buf := n.buf } :=
    { h with bufWf := by simpa [hn] using Memory.wf_write _ _ _ (by simp only at hi; omega) h.bufWf }
  subst hn
  rcases hend with ⟨hseven, hbyte, he⟩ | ⟨hseven, hbyte, he⟩ | ⟨hmid, he⟩ <;>
    obtain rfl := Except.ok.inj (he.symm.trans ht) <;> simp only at *
  · rcases fdxCrccheck_cases _ with ⟨-, hc⟩ | ⟨-, hc⟩ <;> rw [hc]
    · exact ⟨{ hstored with
        bitCtrRange := by simp [hseven]
        flagStable := .inr (.inr rfl)
        seekZero := by simp [hseven]
        pending := by simp [hseven, hbyte]
        passed := by simp [hbyte]
        window := hwindow }, rfl⟩
    · exact ⟨(resyncFdx_keeps_fdxDecoderInv hstored :), rfl⟩
  · exact ⟨{ hstored with
      bitCtrRange := by simp [hseven]
      flagStable := .inr (.inl rfl)
      seekZero := by simp [hseven]
      pending := by simp [hbyte]
      passed := by simp [hseven, hbyte]
      window := hwindow }, rfl⟩
  · exact ⟨{ hstored with
      bitCtrRange := by simp only; bv_omega
      seekZero := by simp only; bv_omega
      pending := hstored.pending.trans (by simp only; bv_omega)
      passed := hstored.passed.trans (by simp only; bv_omega)
      window := hwindow }, rfl⟩

/-- The marker ends an octet below 12, and its 1 is bit 0 of the window (rule R157). -/
theorem fdxMarker_keeps_fdxDecoderInv {b : Bool} {w : BitVec 16} {s : State} (h : FdxDecoderInv s)
    (hflag : s.flag ≠ .integrityPassed) (hbit : s.bitCtr = 8#4) (hw : w.getLsbD 0 = true) :
    FdxDecoderInv (fdxMarker b { s with tenZ := w }) := by
  have hbyte : s.byteCtr < 12#4 := by
    have hle := h.byteCtrLe
    have hne : s.byteCtr ≠ 12#4 := fun he => hflag (h.passed.2 ⟨he, hbit⟩)
    bv_omega
  exact { h with
    byteCtrLe := by simp only [fdxMarker_writes]; bv_omega
    bitCtrRange := by simp
    seekZero := by simp
    pending := h.pending.trans (by simp only [fdxMarker_writes]; bv_omega)
    passed := by simp [hflag]
    window := fun _ => hw }

/-- The window after a decoded 1 ends in it (rule R154). -/
theorem windowAfter_true_getLsbD_zero (s : State) : (windowAfter true s).getLsbD 0 = true := by
  rw [windowAfter_getLsbD _ _ _ (by decide), if_pos rfl]

theorem fdxBit_keeps_fdxDecoderInv {b : Bool} {s t : State} (h : FdxDecoderInv s) (hflag : s.flag ≠ .integrityPassed)
    (hmarker : s.bitCtr = 8#4 → b = true) (ht : fdxBit b s = .ok t) : FdxDecoderInv t ∧ t = s.withDecodeOf t := by
  rcases fdxBit_cases b s with ⟨hbit, he⟩ | ⟨hbit, he⟩ | ⟨hbit, he⟩ | ⟨-, -, he⟩ <;> rw [he] at ht
  · obtain rfl := Except.ok.inj ht
    refine ⟨fdxSeek_keeps_fdxDecoderInv h hbit fun hhdr => ?_, by cases headerSeen b s <;> rfl⟩
    obtain rfl : b = true := (Bool.and_eq_true_iff.1 hhdr).2
    exact windowAfter_true_getLsbD_zero s
  · refine fdxData_keeps_fdxDecoderInv h hbit ?_ ht
    have hk : s.bitCtr.toNat + 1 < 16 := by bv_omega
    simpa [windowAfter_getLsbD _ _ _ hk] using h.window (BitVec.le_of_lt hbit)
  · obtain rfl := hmarker hbit
    obtain rfl := Except.ok.inj ht
    exact ⟨fdxMarker_keeps_fdxDecoderInv h hflag hbit (windowAfter_true_getLsbD_zero s), rfl⟩
  · cases ht

/-- Everything FDX.SHORT can do: the second half of a 0, a marker violation, or the first half of a 0 (rule R153). -/
theorem fdxShort_cases (s : State) :
    (s.pulse2 = true ∧ fdxShort s = .ok { s with pulse2 := false }) ∨
    (s.pulse2 = false ∧ s.bitCtr = 8#4 ∧ fdxShort s = .ok (resyncFdx s)) ∨
    (s.pulse2 = false ∧ s.bitCtr ≠ 8#4 ∧ fdxShort s = fdxBit false { s with pulse2 := true }) := by
  unfold fdxShort
  cases s.pulse2 <;> by_cases hbit : s.bitCtr = 8#4 <;> simp [hbit]

theorem fdxStep_keeps_fdxDecoderInv {cls : PulseClass} {s t : State} (h : FdxDecoderInv s)
    (hflag : s.flag ≠ .integrityPassed) (ht : fdxStep cls s = .ok t) : FdxDecoderInv t ∧ t = s.withDecodeOf t := by
  have withHalf : ∀ half, FdxDecoderInv { s with pulse2 := half } := fun _ => { h with }
  have bit : ∀ b half, (s.bitCtr = 8#4 → b = true) → fdxBit b { s with pulse2 := half } = .ok t →
      FdxDecoderInv t ∧ t = s.withDecodeOf t := fun b half =>
    fdxBit_keeps_fdxDecoderInv (s := { s with pulse2 := half }) (withHalf half) hflag
  cases cls with
  | invalid =>
    obtain rfl := Except.ok.inj ht
    exact ⟨resyncFdx_keeps_fdxDecoderInv h, rfl⟩
  | long => exact bit true false (fun _ => rfl) ht
  | short =>
    rcases fdxShort_cases s with ⟨-, he⟩ | ⟨-, -, he⟩ | ⟨-, hbit, he⟩ <;> rw [fdxStep, he] at ht
    · obtain rfl := Except.ok.inj ht
      exact ⟨withHalf false, rfl⟩
    · obtain rfl := Except.ok.inj ht
      exact ⟨resyncFdx_keeps_fdxDecoderInv h, rfl⟩
    · exact bit false true (fun h8 => absurd h8 hbit) ht

/-! ### The event -/

/-- A dispatched pulse keeps the half of the protocol in use, and moves no session register (rule R47, rule R105). -/
theorem dispatch_keeps_controlInv {cls : PulseClass} {level : Bool} {s t : State} (h : ControlInv s)
    (hflag : s.flag ≠ .integrityPassed) (ht : dispatch cls level s = .ok t) : ControlInv t := by
  cases hp : s.protocol with
  | em4100 =>
    simp only [dispatch, hp] at ht
    obtain ⟨hs, hd⟩ := (controlInv_iff_em hp).1 h
    obtain ⟨htd, hframe⟩ := emStep_keeps_emDecoderInv hd hflag ht
    have hts : SessionInv t := hframe ▸ hs.withDecodeOf hflag t
    have htp : t.protocol = .em4100 := by rw [hframe]; exact hp
    exact (controlInv_iff_em htp).2 ⟨hts, htd⟩
  | fdxb =>
    simp only [dispatch, hp] at ht
    obtain ⟨hs, hd⟩ := (controlInv_iff_fdx hp).1 h
    obtain ⟨htd, hframe⟩ := fdxStep_keeps_fdxDecoderInv hd hflag ht
    have hts : SessionInv t := hframe ▸ hs.withDecodeOf hflag t
    have htp : t.protocol = .fdxb := by rw [hframe]; exact hp
    exact (controlInv_iff_fdx htp).2 ⟨hts, htd⟩

theorem countEdge_keeps_controlInv {s : State} (h : ControlInv s) (now : U32) : ControlInv (countEdge now s) := { h with }

theorem edge_keeps_controlInv {P : Config.Params} {line : Line} {level : Bool} {now : U32} {s t : State}
    (h : ControlInv s) (ht : edge P line level now s = .ok t) : ControlInv t := by
  rcases edge_cases P line level now s with ⟨-, he⟩ | ⟨-, -, he⟩ | ⟨-, hflag, he⟩ <;> rw [he] at ht
  · exact Except.ok.inj ht ▸ h
  · exact Except.ok.inj ht ▸ countEdge_keeps_controlInv h now
  · exact dispatch_keeps_controlInv (countEdge_keeps_controlInv h now) hflag ht

/-! ## TICK, READ, SHUT and RESET -/

/-- A session may finish at any millisecond up to `rt`, with TAG_DECODED only on a passed frame (rule R196). -/
theorem finish_keeps_controlInv {s : State} (h : ControlInv s) {o : ReadOutcome} {ms : BitVec 32} (hms : ms ≤ s.rt)
    (ho : o = .tagDecoded → s.flag = .integrityPassed) : ControlInv (finish o { s with msCount := ms }) :=
  { h with
    armedIff := by simp
    circuitLegal := ⟨h.circuitLegal.1, by simp⟩
    antennas := by simp
    msLe := hms
    durations := by simp
    sessTime := by simp
    result := ⟨by simp, fun hto => ⟨rfl, ho hto⟩⟩ }

/-- A poll in WAIT finishes the session or leaves it waiting below `rt` (rule R195). -/
theorem poll_keeps_controlInv {s : State} (h : ControlInv s) (hbusy : s.sess ≠ .idle) {ms : BitVec 32}
    (hcd : s.cd ≤ ms) (hrt : ms ≤ s.rt) : ControlInv (poll { s with msCount := ms, sess := .wait }) := by
  rcases poll_cases { s with msCount := ms, sess := .wait } with ⟨hf, he⟩ | ⟨-, -, he⟩ | ⟨-, hlt, he⟩ <;> rw [he]
  · exact (finish_keeps_controlInv h hrt fun _ => hf :)
  · exact (finish_keeps_controlInv h (o := .noTag) hrt nofun :)
  · exact { h with
      armedIff := by simpa [hbusy] using h.armedIff
      circuitLegal := ⟨h.circuitLegal.1, fun _ => h.circuitLegal.2 hbusy⟩
      antennas := by simpa [hbusy] using h.antennas
      msLe := hrt
      durations := fun _ => h.durations hbusy
      sessTime := ⟨nofun, fun _ => ⟨hcd, hlt⟩⟩
      result := ⟨fun hd => absurd (h.result.1 hd) hbusy, h.result.2⟩ }

/-- A millisecond counted below a bound reaches at most the bound, without wrapping. -/
theorem countMs_le {ms bound : BitVec 32} (h : ms < bound) : ms + 1 ≤ bound := by bv_omega

theorem tick_keeps_controlInv {P : Config.Params} {s : State} (h : ControlInv s) : ControlInv (tick P s) := by
  rcases tick_cases P s with ⟨-, he⟩ | ⟨hs, he⟩ | ⟨hs, he⟩ <;> rw [he]
  · exact h
  · have hbusy : s.sess ≠ .idle := by simp [hs]
    obtain ⟨-, hcdrt⟩ := h.durations hbusy
    have hrt : s.msCount + 1 ≤ s.rt := BitVec.le_trans (countMs_le (h.sessTime.1 hs)) hcdrt
    rcases gate_cases P (countMs s) with ⟨hlt, hg⟩ | ⟨-, -, hg⟩ | ⟨hcd, -, hg⟩ <;> rw [hg]
    · exact { h with msLe := hrt, sessTime := ⟨fun _ => hlt, fun hw => absurd (hs.symm.trans hw) nofun⟩ }
    · exact finish_keeps_controlInv h hrt nofun
    · exact poll_keeps_controlInv h hbusy hcd hrt
  · have hbusy : s.sess ≠ .idle := by simp [hs]
    obtain ⟨hcd, hlt⟩ := h.sessTime.2 hs
    have hcount : countMs s = { s with msCount := s.msCount + 1, sess := .wait } := by rw [← hs]; rfl
    rw [hcount]
    exact poll_keeps_controlInv h hbusy (by bv_omega) (countMs_le hlt)

/-- READ_ACCEPT starts a session from zero milliseconds with the selected antenna on (rule R191). -/
theorem readAccept_sessionInv {p : Protocol} {c : BitVec 2} {cd rt : U32} {s : State} (hc : legalCircuit c)
    (hcd : params.gateMargin ≤ cd) (hrt : cd ≤ rt) : SessionInv (readAccept p c cd rt s) := by
  have hpos : 0#32 < params.gateMargin := by decide
  rw [readAccept_eq]
  exact {
    armedIff := by simp
    circuitLegal := ⟨by rcases hc with rfl | rfl <;> simp, fun _ => hc⟩
    antennas := by simp
    msLe := show 0#32 ≤ rt by bv_omega
    durations := fun _ => ⟨hcd, hrt⟩
    sessTime := ⟨fun _ => show 0#32 < cd by bv_omega, by simp⟩
    result := by simp }

theorem armclear_emDecoderInv (s : State) : EmDecoderInv (armclear .em4100 s) := by constructor <;> simp

theorem armclear_fdxDecoderInv (s : State) : FdxDecoderInv (armclear .fdxb s) := by constructor <;> simp

/-- A session starts with the decode registers cleared for its protocol (rule R191, rule R192). -/
theorem readAccept_controlInv {p : Protocol} {c : BitVec 2} {cd rt : U32} {s : State} (hc : legalCircuit c)
    (hcd : params.gateMargin ≤ cd) (hrt : cd ≤ rt) : ControlInv (readAccept p c cd rt s) := by
  have hs : SessionInv (readAccept p c cd rt s) := readAccept_sessionInv hc hcd hrt
  cases p with
  | em4100 => exact (controlInv_iff_em rfl).2 ⟨hs, { armclear_emDecoderInv s with }⟩
  | fdxb => exact (controlInv_iff_fdx rfl).2 ⟨hs, { armclear_fdxDecoderInv s with }⟩

theorem read_keeps_controlInv {p : Protocol} {c : BitVec 2} {cd rt : U32} {s : State} (h : ControlInv s) :
    ControlInv (read params p c cd rt s) := by
  rcases read_cases params p c cd rt s with ⟨-, he⟩ | ⟨⟨-, hc, hcd, hrt⟩, he⟩ <;> rw [he]
  · exact h.withTrace s.events .reject
  · exact (readAccept_controlInv hc hcd hrt).withResponse .ok

theorem shut_keeps_controlInv {s : State} (h : ControlInv s) : ControlInv (shut s) := by
  rcases shut_cases s with ⟨-, he⟩ | ⟨hidle, he⟩ <;> rw [he]
  · exact h.withTrace s.events .reject
  · exact { h with antennas := by simp [hidle] }

theorem controlInv_reset : ControlInv State.reset := by constructor <;> decide

/-- RESET leaves the registers of the reset state (rule R270). -/
theorem resetState_controlInv (s : State) : ControlInv (resetState s) := controlInv_reset.withTrace s.events s.resp

/-! ## The step -/

/-- Every event keeps the control invariant (rule R46, rule R80). -/
theorem exec_event_keeps_controlInv {i : Instr} {s t : State} (hi : i.isEvent = true) (h : ControlInv s)
    (ht : exec i s = .next t) : ControlInv t := by
  have of_next : ∀ {u : State}, ControlInv u → Host.Outcome.next u = exec i s → ControlInv t := fun hu he =>
    Host.Outcome.next.inj (he.trans ht) ▸ hu
  cases i with
  | nop => exact of_next (h.withResponse .silent) rfl
  | edge line level now =>
    obtain ⟨u, hu, rfl⟩ := (answer_next _ _ _).1 ht
    exact (edge_keeps_controlInv h hu).withResponse .silent
  | tick => exact of_next ((tick_keeps_controlInv h).withResponse .silent) rfl
  | read p c cd rt => exact of_next (read_keeps_controlInv h) rfl
  | shut => exact of_next (shut_keeps_controlInv h) rfl
  | rdbuf idx => exact of_next (h.withResponse _) rfl
  | reserved6 payload => exact of_next (h.withResponse .reject) rfl
  | reset => exact of_next ((resetState_controlInv s).withResponse .silent) rfl
  | _ => cases hi

/-- A word the decoder accepts is an event row (rule R80). -/
theorem isEvent_of_decode {w : EventWord} {i : Instr} (h : decode w = .ok i) : i.isEvent = true := by
  rcases decode_isEvent w i h with rfl | ⟨_, _, _, rfl⟩ | rfl | ⟨_, _, _, _, rfl⟩ | rfl | ⟨_, rfl⟩ | ⟨_, rfl⟩ | rfl <;> rfl

theorem step_keeps_controlInv {s t : State} (h : ControlInv s) (ht : step s = .next t) : ControlInv t := by
  rcases step_cases s with ⟨-, he⟩ | ⟨w, rest, i, -, hdec, he⟩ | ⟨w, rest, e, -, -, he⟩ <;> rw [he] at ht
  · exact exec_event_keeps_controlInv rfl h ht
  · exact exec_event_keeps_controlInv (isEvent_of_decode hdec) (h.withTrace rest s.resp) ht
  · exact Host.Outcome.next.inj ht ▸ h.withTrace rest .reject

/-- Settles O45: RESET's registers meet every clause, and each kind of event keeps them. -/
theorem stepKeepsTheControlInvariant : Obligations.StepKeepsTheControlInvariant :=
  ⟨controlInv_reset, fun _ _ => step_keeps_controlInv⟩

end Sys2Proof.Machine
end

section
/-! RDBUF reads one byte of the frame buffer through the read port (rule R67). -/

namespace Sys2Proof.Machine

/-- Inside the 13 octets the port shows the buffer (rule R67). -/
theorem readPort_of_le {idx : BitVec 4} (h : idx.toNat ≤ 12) (s : State) : readPort idx s = s.buf.read idx.toNat :=
  if_pos (BitVec.le_def.2 h)

/-- The indices 13, 14 and 15 name no octet (rule R67). -/
theorem readPort_of_lt {idx : BitVec 4} (h : 12 < idx.toNat) (s : State) : readPort idx s = 0x00#8 :=
  if_neg fun hle => Nat.not_le.2 h (BitVec.le_def.1 hle)

/-- RDBUF writes the response and nothing else, in every state (rule R67). -/
theorem exec_rdbuf (idx : BitVec 4) (s : State) :
    exec (.rdbuf idx) s = .next { s with resp := .byte (readPort idx s) } := rfl

/-- Settles O8: RDBUF responds with the read port's byte, on either side of its bound. -/
theorem rdbufReadsOneByte : Obligations.RdbufReadsOneByte := by
  intro idx s
  constructor
  · intro hle
    rw [exec_rdbuf, readPort_of_le hle]
  · intro hlt
    rw [exec_rdbuf, readPort_of_lt hlt]

end Sys2Proof.Machine
end

section
/-! The edge classifier: what CLASSIFY measures and writes, which edges reach a decoder, and which decoder operation takes the
pulse (rule R100, rule R101, rule R104, rule R105). -/

namespace Sys2Proof.Machine

/-- The class by the thresholds of the selected protocol, with the length modulo 2^32 written out (rule R101). -/
theorem classAt_eq_ite (P : Config.Params) (now : U32) (s : State) :
    classAt P now s =
      if s.protocol = .em4100 then classEm P (now - s.lastEdge) else classFdx P (now - s.lastEdge) := by
  unfold classAt
  cases s.protocol <;> rfl

/-- An edge is accepted while armed, on the selected line (rule R100). -/
theorem accepts_eq_true_iff (line : Line) (s : State) :
    accepts line s = true ↔ s.armed = true ∧ line = if s.circuit = 1#2 then .a else .b := by
  rw [accepts, Bool.and_eq_true, beq_iff_eq, selLine]

/-- CLASSIFY as one write: the two registers and the response (rule R101). -/
theorem exec_classify (now : U32) (s : State) :
    exec (.classify now) s =
      .next { s with lastEdge := now, pulseCount := s.pulseCount + 1, resp := .pulse (classAt params now s) } := rfl

theorem exec_edge (line : Line) (level : Bool) (now : U32) (s : State) :
    exec (.edge line level now) s = answer .silent (edge params line level now s) := rfl

theorem exec_dispatch (cls : PulseClass) (level : Bool) (s : State) :
    exec (.dispatch cls level) s = answer .silent (dispatch cls level s) := rfl

/-- An EM4100 pulse goes to EM_STEP (rule R105). -/
theorem dispatch_em {s : State} (hp : s.protocol = .em4100) (cls : PulseClass) (level : Bool) :
    dispatch cls level s = emStep cls level s := by
  rw [dispatch, hp]

/-- An FDX-B pulse goes to FDX_STEP, without the level (rule R105). -/
theorem dispatch_fdx {s : State} (hp : s.protocol = .fdxb) (cls : PulseClass) (level : Bool) :
    dispatch cls level s = fdxStep cls s := by
  rw [dispatch, hp]

/-- An edge that is not accepted leaves every register as it was (rule R100). -/
theorem exec_edge_of_not_accepts {line : Line} {s : State} (h : ¬ accepts line s = true) (level : Bool) (now : U32) :
    exec (.edge line level now) s = .next { s with resp := .silent } := by
  rw [exec_edge]
  rcases edge_cases params line level now s with ⟨-, he⟩ | ⟨ha, -, -⟩ | ⟨ha, -, -⟩
  · rw [he]
    rfl
  · exact absurd ha h
  · exact absurd ha h

/-- After success an accepted edge is counted and no more (rule R104). -/
theorem exec_edge_of_passed {line : Line} {s : State} (h : accepts line s = true) (hf : s.flag = .integrityPassed)
    (level : Bool) (now : U32) :
    exec (.edge line level now) s =
      .next { s with lastEdge := now, pulseCount := s.pulseCount + 1, resp := .silent } := by
  rw [exec_edge]
  rcases edge_cases params line level now s with ⟨ha, -⟩ | ⟨-, -, he⟩ | ⟨-, hne, -⟩
  · exact absurd h (ne_true_of_eq_false ha)
  · rw [he]
    rfl
  · exact absurd hf hne

/-- Before success an accepted edge is counted and its pulse dispatched (rule R100). -/
theorem exec_edge_of_not_passed {line : Line} {s : State} (h : accepts line s = true) (hf : s.flag ≠ .integrityPassed)
    (level : Bool) (now : U32) :
    exec (.edge line level now) s = exec (.dispatch (classAt params now s) level) (countEdge now s) := by
  rw [exec_edge, exec_dispatch]
  rcases edge_cases params line level now s with ⟨ha, -⟩ | ⟨-, hp, -⟩ | ⟨-, -, he⟩
  · exact absurd h (ne_true_of_eq_false ha)
  · exact absurd hp hf
  · rw [he]

/-- Settles O10: the class is taken from the state before `lastEdge` is written. -/
theorem classifyCountsAndMeasures : Obligations.ClassifyCountsAndMeasures := by
  intro now s
  rw [exec_classify, classAt_eq_ite]

/-- Settles O11, by whether the edge is accepted and, if so, whether a frame has passed. -/
theorem edgeAcceptanceFreezeAndDispatch : Obligations.EdgeAcceptanceFreezeAndDispatch := by
  intro line level now s
  refine ⟨fun hlost => ?_, fun harmed hline hf => ?_, fun harmed hline hf => ?_⟩
  · refine exec_edge_of_not_accepts (fun ha => ?_) level now
    obtain ⟨harmed, hline⟩ := (accepts_eq_true_iff line s).1 ha
    rcases hlost with hdisarmed | hother
    · exact absurd harmed (ne_true_of_eq_false hdisarmed)
    · exact hother hline
  · exact exec_edge_of_passed ((accepts_eq_true_iff line s).2 ⟨harmed, hline⟩) hf level now
  · rw [exec_edge_of_not_passed ((accepts_eq_true_iff line s).2 ⟨harmed, hline⟩) hf level now, classAt_eq_ite, countEdge]

/-- Settles O12, by the selected protocol; each class is then one operation of its decoder. -/
theorem dispatchSelectsTheDecoder : Obligations.DispatchSelectsTheDecoder := by
  intro level s
  constructor <;> intro hp
  · simp only [exec_dispatch, dispatch_em hp]
    exact ⟨rfl, rfl, rfl⟩
  · simp only [exec_dispatch, dispatch_fdx hp]
    exact ⟨rfl, rfl, rfl⟩

end Sys2Proof.Machine
end

section
/-! The operations of the EM4100 decoder: the resyncs, EM_BIT in its two phases, the pulses that carry it, the end of a row and
the end of a frame (rule R121 to rule R128). -/

namespace Sys2Proof.Machine

/-- An operation that may fault and does not runs to its result. -/
theorem runsTo_of_answer {i : Instr} {s t : State} (h : exec i s = answer .silent (.ok t)) : runsTo i s t := ⟨.silent, h⟩

/-- Settles O16: each of the four is one record update, that of its resync. -/
theorem resyncsClearTheirOwnAssembly : Obligations.ResyncsClearTheirOwnAssembly := by
  intro s
  constructor <;> rintro i (rfl | rfl)
  all_goals exact ⟨.silent, rfl⟩

/-! ## EM_BIT in SEEK_HEADER -/

/-- The header count writes `ones` and nothing else (rule R124). -/
theorem emBitSeek_eq (b : Bool) (s : State) : emBitSeek b s = { s with ones := if b then s.ones + 1 else 0 } := by
  cases b <;> rfl

theorem runsTo_emBitSeek (b : Bool) (s : State) : runsTo (.emBitSeek b) s (emBitSeek b s) := ⟨.silent, rfl⟩

/-- Settles O18: below 9 the count of consecutive ones has room for one more. -/
theorem emBitSeekCountsOnes : Obligations.EmBitSeekCountsOnes := by
  intro b s hones
  refine ⟨if b then s.ones + 1 else 0, ?_, ?_, emBitSeek_eq b s ▸ runsTo_emBitSeek b s⟩
  all_goals
    cases b
    · simp
    · simp only [if_true]
      bv_omega

/-! ## EM_BIT, EM.LONG and EM.SHORT -/

theorem emBit_of_lt {s : State} (h : s.ones.toNat < 9) (b : Bool) :
    emBit b s = .ok { s with ones := if b then s.ones + 1 else 0 } := by
  rw [← emBitSeek_eq]
  exact if_pos (BitVec.lt_def.2 h)

theorem emBit_of_eq {s : State} (h : s.ones.toNat = 9) (b : Bool) : emBit b s = emBitStore b s := by
  have hones : s.ones = 9#4 := BitVec.eq_of_toNat_eq h
  simp [emBit, hones]

theorem exec_emLong (level : Bool) (s : State) :
    exec (.emLong level) s = answer .silent (emBit level { s with longSeen := true, emHalf := false }) := rfl

theorem exec_emShort (level : Bool) (s : State) : exec (.emShort level) s = answer .silent (emShort level s) := rfl

theorem exec_emBitStore (b : Bool) (s : State) : exec (.emBitStore b) s = answer .silent (emBitStore b s) := rfl

/-- Before the first LONG a SHORT is ignored (rule R123). -/
theorem emShort_of_not_seen {s : State} (hlong : s.longSeen = false) (level : Bool) : emShort level s = .ok s :=
  if_pos hlong

/-- The first SHORT of a pair is remembered (rule R123). -/
theorem emShort_of_no_half {s : State} (hlong : s.longSeen = true) (hhalf : s.emHalf = false) (level : Bool) :
    emShort level s = .ok { s with emHalf := true } := by
  simp [emShort, hlong, hhalf]

/-- At the second half of a pair EM.SHORT is EM_BIT (rule R123). -/
theorem emShort_of_half {s : State} (hlong : s.longSeen = true) (hhalf : s.emHalf = true) (level : Bool) :
    emShort level s = emBit level { s with emHalf := false } := by
  simp [emShort, hlong, hhalf]

/-- An operation that is EM_BIT runs, while `ones` is below 9, to the header count (rule R124). -/
theorem runsTo_of_answer_emBit {i : Instr} {s s' : State} {b : Bool} (h : exec i s = answer .silent (emBit b s'))
    (hones : s'.ones.toNat < 9) : runsTo i s { s' with ones := if b then s'.ones + 1 else 0 } :=
  runsTo_of_answer (by rw [h, emBit_of_lt hones])

/-- An operation that is EM_BIT completes, with `ones` at 9, as the store does (rule R125). -/
theorem next_of_answer_emBit {i : Instr} {s s' : State} {b : Bool} (h : exec i s = answer .silent (emBit b s'))
    (hones : s'.ones.toNat = 9) (hbyte : s'.byteCtr.toNat ≤ 12) (hbit : s'.bitCtr.toNat ≤ 7) :
    ∃ t, exec i s = .next t ∧ exec (.emBitStore b) s' = .next t := by
  obtain ⟨t, ht⟩ := emBitStore_ok b s' hbyte hbit
  exact ⟨respond .silent t, by rw [h, emBit_of_eq hones, ht]; rfl, by rw [exec_emBitStore, ht]; rfl⟩

/-- Settles O17: LONG and the second SHORT of a pair are EM_BIT, by its phase; the other SHORTs wait. -/
theorem emLongAndShort : Obligations.EmLongAndShort := by
  intro level s
  have second (hlong : s.longSeen = true) (hhalf : s.emHalf = true) :
      exec (.emShort level) s = answer .silent (emBit level { s with emHalf := false }) := by
    rw [exec_emShort, emShort_of_half hlong hhalf]
  refine ⟨?_, ?_, ?_, ?_, ?_, ?_⟩
  · exact runsTo_of_answer_emBit (exec_emLong level s)
  · exact next_of_answer_emBit (exec_emLong level s)
  · intro hlong
    exact runsTo_of_answer (by rw [exec_emShort, emShort_of_not_seen hlong])
  · intro hlong hhalf
    exact runsTo_of_answer (by rw [exec_emShort, emShort_of_no_half hlong hhalf])
  · intro hlong hhalf
    exact runsTo_of_answer_emBit (second hlong hhalf)
  · intro hlong hhalf
    exact next_of_answer_emBit (second hlong hhalf)

/-! ## EM_BIT in ASSEMBLE -/

/-- Above position 0 the bit is stored, goes into the row parity, and the position moves down (rule R125). -/
theorem emBitStore_of_pos {s : State} (hbyte : s.byteCtr.toNat ≤ 12) (hbit : s.bitCtr.toNat ≤ 7)
    (hpos : 1 ≤ s.bitCtr.toNat) (b : Bool) :
    emBitStore b s = .ok { s with
      buf := s.buf.write s.byteCtr.toNat (withBit (s.buf.read s.byteCtr.toNat) s.bitCtr.toNat b)
      rowPar := s.rowPar ^^ b, bitCtr := s.bitCtr - 1 } := by
  rcases emBitStore_cases b s with ⟨hn, -⟩ | ⟨m, rfl, -, -, ⟨-, he⟩ | ⟨hzero, -⟩⟩
  · exact absurd ⟨hbyte, hbit⟩ hn
  · exact he
  · simp [hzero] at hpos

/-- At position 0 the bit is stored and the row ends (rule R125). -/
theorem emBitStore_of_zero {s : State} (hbyte : s.byteCtr.toNat ≤ 12) (hzero : s.bitCtr.toNat = 0) (b : Bool) :
    emBitStore b s = .ok (emRowend b { s with
      buf := s.buf.write s.byteCtr.toNat (withBit (s.buf.read s.byteCtr.toNat) s.bitCtr.toNat b) }) := by
  rcases emBitStore_cases b s with ⟨hn, -⟩ | ⟨m, rfl, -, -, ⟨hpos, -⟩ | ⟨-, he⟩⟩
  · exact absurd ⟨hbyte, by omega⟩ hn
  · bv_omega
  · exact he

/-- Settles O19: the stored bit is the one bit write, and the position decides what follows it. -/
theorem emBitStoreFillsTheRow : Obligations.EmBitStoreFillsTheRow := by
  intro b s hwf hbyte hbit
  refine ⟨_, setsBit_write s.buf _ _ b hwf hbyte hbit, fun hpos => ?_, fun hzero => ?_⟩
  · exact runsTo_of_answer (by rw [exec_emBitStore, emBitStore_of_pos hbyte hbit hpos])
  · exact ⟨_, by rw [exec_emBitStore, emBitStore_of_zero hbyte hzero]; rfl, rfl⟩

/-! ## EM_ROWEND -/

/-- A bit of `failMap` after the row check: the current row's is set when its parity is wrong (rule R126). -/
theorem failMapAfterRow_getLsbD (b : Bool) {s : State} (h : s.byteCtr.toNat ≤ 9) (r : Nat) :
    (failMapAfterRow b s).getLsbD r =
      (s.failMap.getLsbD r || (decide (r = s.byteCtr.toNat) && decide (s.rowPar ≠ b))) := by
  unfold failMapAfterRow
  split
  · next hbad =>
    rw [withBit_getLsbD _ _ _ _ (by omega)]
    by_cases hr : r = s.byteCtr.toNat <;> simp_all
  · next hgood => simp_all

theorem emRowend_of_le {s : State} (h : s.byteCtr.toNat ≤ 9) (b : Bool) :
    emRowend b s =
      { s with failMap := failMapAfterRow b s, rowPar := false, byteCtr := s.byteCtr + 1, bitCtr := 4 } :=
  if_pos (BitVec.le_def.2 h)

theorem emRowend_of_lt {s : State} (h : 9 < s.byteCtr.toNat) (b : Bool) :
    emRowend b s = emFrameend { s with rowPar := false } :=
  if_neg fun hle => Nat.not_le.2 h (BitVec.le_def.1 hle)

theorem runsTo_emRowend (b : Bool) (s : State) : runsTo (.emRowend b) s (emRowend b s) := ⟨.silent, rfl⟩

/-- Settles O20: a data row is checked by `failMapAfterRow`; row 10 goes to the frame's end. -/
theorem emRowendChecksTheRow : Obligations.EmRowendChecksTheRow := by
  intro b s
  refine ⟨fun hrow => ⟨failMapAfterRow b s, fun r _ => failMapAfterRow_getLsbD b hrow r, ?_⟩, fun hrow => ?_⟩
  · exact emRowend_of_le hrow b ▸ runsTo_emRowend b s
  · exact ⟨respond .silent (emRowend b s), rfl, by rw [emRowend_of_lt (by omega)]; rfl⟩

/-! ## EM_FRAMEEND -/

/-- After the column check `failMap` is 0 exactly when no row failed and no column is bad (rule R127). -/
theorem failMapAfterColumns_eq_zero (s : State) :
    failMapAfterColumns s = 0#11 ↔ (∀ r, r < 10 → s.failMap.getLsbD r = false) ∧ columnsBad s = false := by
  constructor
  · intro h
    have bit (r : Nat) : (if r = 10 then columnsBad s else s.failMap.getLsbD r) = false := by
      rw [← failMapAfterColumns_getLsbD, h, BitVec.getLsbD_zero]
    exact ⟨fun r hr => by simpa [Nat.ne_of_lt hr] using bit r, bit 10⟩
  · rintro ⟨hrows, hcols⟩
    refine BitVec.eq_of_getLsbD_eq fun r hr => ?_
    rw [failMapAfterColumns_getLsbD, BitVec.getLsbD_zero]
    split
    · exact hcols
    · exact hrows r (by omega)

theorem runsTo_emFrameend (s : State) : runsTo .emFrameend s (emFrameend s) := ⟨.silent, rfl⟩

/-- Settles O21: the two verdicts are the two cases of EM_FRAMEEND, whose test is on every bit of `failMap`. -/
theorem emFrameendJudgesTheFrame : Obligations.EmFrameendJudgesTheFrame := by
  intro s
  rw [← columnsBad_eq_false, ← failMapAfterColumns_eq_zero]
  rcases emFrameend_cases s with ⟨hgood, he⟩ | ⟨hbad, he⟩
  · exact ⟨fun _ => he ▸ runsTo_emFrameend s, fun h => absurd hgood h⟩
  · exact ⟨fun h => absurd h hbad, fun _ => (he ▸ runsTo_emFrameend s : runsTo .emFrameend s (resyncEm s))⟩

end Sys2Proof.Machine
end

section
/-! EM_BIT on the 55 bits after a header. `EmAssembled` says what the registers hold once the bits before position `j` of row `r`
have been taken; EM_BIT moves it on by one position, and at the last bit the verdict is `emBodyValid` of the bits (rule R125 to
rule R127, rule R130). An inverted bit changes the parity of its own row and column and of no other (rule R132). -/

namespace Sys2Proof.Machine

/-! ## Parities of the 55 bits -/

/-- The XOR of a list that is one longer. -/
theorem xorAll_map_range_succ (f : Nat → Bool) (n : Nat) :
    xorAll ((List.range (n + 1)).map f) = (xorAll ((List.range n).map f) ^^ f n) := by
  have append (l : List Bool) (b : Bool) : xorAll (l ++ [b]) = (xorAll l ^^ b) := by
    induction l with
    | nil => simp [xorAll]
    | cons a l ih => simp [xorAll, ih]
  rw [List.range_succ, List.map_append, List.map_singleton, append]

/-- Inverting the entry at `a` inverts the XOR, if `a` is in the list. -/
theorem xorAll_map_range_flip (f : Nat → Bool) (a n : Nat) :
    xorAll ((List.range n).map fun i => f i ^^ decide (i = a)) = (xorAll ((List.range n).map f) ^^ decide (a < n)) := by
  induction n with
  | zero => simp
  | succ n ih =>
    rw [xorAll_map_range_succ, ih, xorAll_map_range_succ]
    rcases Nat.lt_trichotomy a n with h | h | h
    · simp [h, Nat.lt_succ_of_lt h, Nat.ne_of_gt h]
    · simp [h]
    · simp [Nat.not_lt_of_gt h, Nat.ne_of_lt h, Nat.not_lt_of_ge h]

/-- The XOR of the first `j` bits of row `r`. -/
def emRowXor (bits : List Bool) (r j : Nat) : Bool := xorAll ((List.range j).map (emBodyBit bits r))

/-- The XOR of column `j` of the first `n` rows. -/
def emColumnXor (bits : List Bool) (j n : Nat) : Bool := xorAll ((List.range n).map fun r => emBodyBit bits r j)

theorem emRowXor_zero (bits : List Bool) (r : Nat) : emRowXor bits r 0 = false := rfl

theorem emRowXor_succ (bits : List Bool) (r j : Nat) :
    emRowXor bits r (j + 1) = (emRowXor bits r j ^^ emBodyBit bits r j) := xorAll_map_range_succ _ _

theorem emColumnXor_succ (bits : List Bool) (j n : Nat) :
    emColumnXor bits j (n + 1) = (emColumnXor bits j n ^^ emBodyBit bits n j) := xorAll_map_range_succ _ _

/-- The bits are valid exactly when the ten rows and the four columns have even parity (rule R127). -/
theorem emBodyValid_iff (bits : List Bool) :
    emBodyValid bits = true ↔
      (∀ r, r < 10 → emRowXor bits r 5 = false) ∧ (∀ j, j < 4 → emColumnXor bits j 11 = false) := by
  simp [emBodyValid, emRowXor, emColumnXor]

/-! ## The registers while the bits arrive -/

/-- The bits before position `j` of row `r` stand in the buffer, the first bit of a row at position 4 (rule R61). -/
def EmStored (bits : List Bool) (r j : Nat) (m : Memory) : Prop :=
  ∀ q l, l < 5 → 5 * q + l < 5 * r + j → (m.read q).getLsbD (4 - l) = emBodyBit bits q l

/-- Storing the bit of position `j` of row `r` moves on by one position. -/
theorem EmStored.write {bits : List Bool} {r j : Nat} {m : Memory} (h : EmStored bits r j m) (hwf : m.wf = true) (hj : j < 5) :
    EmStored bits r (j + 1) (m.write r (withBit (m.read r) (4 - j) (emBodyBit bits r j))) := by
  intro q l hl hlt
  rw [readBit_after_write _ _ _ _ _ _ hwf (by omega)]
  split
  · next heq =>
    obtain ⟨rfl, hpos⟩ := heq
    obtain rfl : l = j := by omega
    rfl
  · next hne => exact h q l hl (by omega)

/-- In the buffer a column is bad exactly when its bits, the one of row 10 included, have odd parity (rule R127). -/
theorem EmStored.columnsBad_eq_false_iff {bits : List Bool} {s : State} (h : EmStored bits 10 4 s.buf) :
    columnsBad s = false ↔ ∀ j, j < 4 → emColumnXor bits j 11 = false := by
  have column (j : Nat) (hj : j < 4) :
      oddOnes ((List.range 10).map fun r => (s.buf.read r).getLsbD (4 - j)) = (s.buf.read 10).getLsbD (4 - j) ↔
        emColumnXor bits j 11 = false := by
    have hrows : ((List.range 10).map fun r => (s.buf.read r).getLsbD (4 - j)) =
        (List.range 10).map fun r => emBodyBit bits r j :=
      List.map_congr_left fun r hr => h r j (by omega) (by have := List.mem_range.1 hr; omega)
    rw [hrows, ← xorAll_eq_oddOnes, h 10 j (by omega) (by omega), emColumnXor_succ, emColumnXor, bne_eq_false_iff_eq]
  rw [columnsBad_eq_false]
  constructor
  · intro hc j hj
    exact (column j hj).1 (hc (4 - j) (by omega) (by omega))
  · intro hc c hc1 hc4
    obtain ⟨j, hj, rfl⟩ : ∃ j, j < 4 ∧ c = 4 - j := ⟨4 - c, by omega, by omega⟩
    exact (column j hj).2 (hc j hj)

/-- ASSEMBLE before position `j` of row `r`: the counters, the bits stored, the rows failed so far, and the parity of the current
row (rule R26, rule R27, rule R30, rule R31). -/
structure EmAssembled (bits : List Bool) (r j : Nat) (s : State) : Prop where
  ones : s.ones.toNat = 9
  byteCtr : s.byteCtr.toNat = r
  bitCtr : s.bitCtr.toNat = 4 - j
  bufWf : s.buf.wf = true
  stored : EmStored bits r j s.buf
  rowPar : s.rowPar = emRowXor bits r j
  failMap : ∀ q, q < 10 → s.failMap.getLsbD q = (decide (q < r) && emRowXor bits q 5)

/-- The start of ASSEMBLE (rule R124). -/
theorem emAssembled_start (bits : List Bool) {s : State} (hwf : s.buf.wf = true) (hones : s.ones = 9#4)
    (hbyte : s.byteCtr = 0#4) (hbit : s.bitCtr = 4#4) (hpar : s.rowPar = false) (hfail : s.failMap = 0#11) :
    EmAssembled bits 0 0 s where
  ones := by simp [hones]
  byteCtr := by simp [hbyte]
  bitCtr := by simp [hbit]
  bufWf := hwf
  stored := fun q l _ hlt => by omega
  rowPar := hpar
  failMap := by simp [hfail]

/-- A bit before the end of its row. -/
theorem EmAssembled.emBit_inRow {bits : List Bool} {r j : Nat} {s : State} (h : EmAssembled bits r j s) (hr : r ≤ 10)
    (hj : j < 4) : ∃ t, emBit (emBodyBit bits r j) s = .ok t ∧ EmAssembled bits r (j + 1) t := by
  have hbyte := h.byteCtr
  have hbit := h.bitCtr
  rw [emBit_of_eq h.ones, emBitStore_of_pos (by omega) (by omega) (by omega), hbyte, hbit]
  refine ⟨_, rfl, { h with bitCtr := ?_, bufWf := ?_, stored := ?_, rowPar := ?_ }⟩
  · simp only
    bv_omega
  · exact Memory.wf_write _ _ _ (by omega) h.bufWf
  · exact h.stored.write h.bufWf (by omega)
  · rw [emRowXor_succ, ← h.rowPar]

/-- The parity bit of a data row: the row is checked and the next one starts (rule R126). -/
theorem EmAssembled.emBit_rowEnd {bits : List Bool} {r : Nat} {s : State} (h : EmAssembled bits r 4 s) (hr : r < 10) :
    ∃ t, emBit (emBodyBit bits r 4) s = .ok t ∧ EmAssembled bits (r + 1) 0 t := by
  have hbyte := h.byteCtr
  have hbit := h.bitCtr
  rw [emBit_of_eq h.ones, emBitStore_of_zero (by omega) hbit, emRowend_of_le (by simp only; omega), hbyte, hbit]
  refine ⟨_, rfl, { h with byteCtr := ?_, bitCtr := rfl, bufWf := ?_, stored := ?_, rowPar := rfl, failMap := ?_ }⟩
  · simp only
    bv_omega
  · exact Memory.wf_write _ _ _ (by omega) h.bufWf
  · exact h.stored.write h.bufWf (by omega)
  · intro q hq
    have hrow : emRowXor bits r 5 = decide (s.rowPar ≠ emBodyBit bits r 4) := by
      rw [emRowXor_succ, ← h.rowPar]
      cases s.rowPar <;> cases emBodyBit bits r 4 <;> rfl
    rw [failMapAfterRow_getLsbD _ (by simp only; omega)]
    simp only [h.failMap q hq, hbyte, ← hrow]
    rcases Nat.lt_trichotomy q r with hlt | rfl | hlt
    · simp [hlt, Nat.lt_succ_of_lt hlt, Nat.ne_of_lt hlt]
    · simp
    · simp [Nat.not_lt_of_gt hlt, Nat.ne_of_gt hlt, Nat.not_lt_of_ge hlt]

/-- Once all bits but the stop bit have been taken, the frame passes exactly if they are valid (rule R127). -/
theorem emFrameend_of_assembled {bits : List Bool} {s : State} (hstored : EmStored bits 10 4 s.buf)
    (hfail : ∀ q, q < 10 → s.failMap.getLsbD q = emRowXor bits q 5) :
    emFrameend s = if emBodyValid bits then { s with failMap := 0, flag := .integrityPassed } else resyncEm s := by
  have verdict : failMapAfterColumns s = 0#11 ↔ emBodyValid bits = true := by
    rw [failMapAfterColumns_eq_zero, emBodyValid_iff, hstored.columnsBad_eq_false_iff]
    exact and_congr_left fun _ => forall₂_congr fun q hq => by rw [hfail q hq]
  rcases emFrameend_cases s with ⟨hgood, he⟩ | ⟨hbad, he⟩
  · rw [he, if_pos (verdict.1 hgood)]
    rfl
  · rw [he, if_neg (mt verdict.2 hbad)]

/-- The stop bit: it is stored, and the frame ends (rule R126, rule R130). -/
theorem EmAssembled.emBit_last {bits : List Bool} {s : State} (h : EmAssembled bits 10 4 s) :
    ∃ m, EmStored bits 10 5 m ∧ emBit (emBodyBit bits 10 4) s = .ok
      (if emBodyValid bits then { s with buf := m, rowPar := false, failMap := 0, flag := .integrityPassed }
        else resyncEm { s with buf := m, rowPar := false }) := by
  have hbyte := h.byteCtr
  have hstored := h.stored.write h.bufWf (by omega)
  refine ⟨_, hstored, ?_⟩
  rw [emBit_of_eq h.ones, emBitStore_of_zero (by omega) h.bitCtr, emRowend_of_lt (by simp only; omega), hbyte, h.bitCtr]
  refine congrArg Except.ok (emFrameend_of_assembled (fun q l hl hlt => hstored q l hl (by omega)) fun q hq => ?_)
  rw [h.failMap q hq, decide_eq_true hq, Bool.true_and]

/-! ## All 55 bits -/

theorem emBits_append (xs ys : List Bool) {s t : State} (h : emBits xs s = .ok t) :
    emBits (xs ++ ys) s = emBits ys t := by
  induction xs generalizing s with
  | nil => rw [Except.ok.inj h, List.nil_append]
  | cons x xs ih =>
    simp only [List.cons_append, emBits] at h ⊢
    split at h
    · cases h
    · exact ih h

/-- Taking one bit more of the 55 is one more EM_BIT. -/
theorem emBits_take_succ {bits : List Bool} {n : Nat} {s u t : State} (hn : n < bits.length)
    (hu : emBits (bits.take n) s = .ok u) (ht : emBit (emBodyBit bits (n / 5) (n % 5)) u = .ok t) :
    emBits (bits.take (n + 1)) s = .ok t := by
  have hbit : emBodyBit bits (n / 5) (n % 5) = bits[n] := by
    simp [emBodyBit, Nat.div_add_mod, hn]
  rw [← List.take_concat_get' _ _ hn, emBits_append _ _ hu, ← hbit]
  simp only [emBits, ht]

/-- Up to the stop bit every bit is taken, in the order of rows and positions. -/
theorem emBits_take_assembled {bits : List Bool} {s : State} (hlen : bits.length = 55) (h : EmAssembled bits 0 0 s) (n : Nat)
    (hn : n ≤ 54) : ∃ u, emBits (bits.take n) s = .ok u ∧ EmAssembled bits (n / 5) (n % 5) u := by
  induction n with
  | zero => exact ⟨s, rfl, h⟩
  | succ n ih =>
    obtain ⟨u, hu, hass⟩ := ih (by omega)
    by_cases hend : n % 5 = 4
    · obtain ⟨t, ht, hnext⟩ := (hend ▸ hass).emBit_rowEnd (by omega)
      refine ⟨t, emBits_take_succ (by omega) hu (hend.symm ▸ ht), ?_⟩
      rwa [show (n + 1) / 5 = n / 5 + 1 by omega, show (n + 1) % 5 = 0 by omega]
    · obtain ⟨t, ht, hnext⟩ := hass.emBit_inRow (by omega) (by omega)
      refine ⟨t, emBits_take_succ (by omega) hu ht, ?_⟩
      rwa [show (n + 1) / 5 = n / 5 by omega, show (n + 1) % 5 = n % 5 + 1 by omega]

/-- The stop bit judges the frame: the state before it, and the one after it (rule R127). -/
theorem emBits_body {bits : List Bool} {s : State} (hlen : bits.length = 55) (h : EmAssembled bits 0 0 s) :
    ∃ u t, emBits (bits.take 54) s = .ok u ∧ EmAssembled bits 10 4 u ∧ emBits bits s = .ok t ∧
      (emBodyValid bits = true → t.flag = .integrityPassed ∧ EmStored bits 10 5 t.buf) ∧
      (emBodyValid bits = false →
        t.flag = .inProgress ∧ t.ones = 0#4 ∧ t.byteCtr = 0#4 ∧ t.bitCtr = 4#4 ∧ t.longSeen = false) := by
  obtain ⟨u, hu, hass⟩ := emBits_take_assembled hlen h 54 (by omega)
  obtain ⟨m, hm, ht⟩ := EmAssembled.emBit_last hass
  have hall := emBits_take_succ (by omega) hu ht
  rw [List.take_of_length_le (by omega)] at hall
  refine ⟨u, _, hu, hass, hall, fun hv => ?_, fun hv => ?_⟩
  · simp [hv, hm]
  · simp [hv]

/-- Settles O50: the bits reach EM_FRAMEEND assembled, and its test is then the parity of the bits. -/
theorem emFrameAcceptedIffParityHolds : Obligations.EmFrameAcceptedIffParityHolds := by
  intro bits s hlen hwf hones hbyte hbit hpar hfail _
  obtain ⟨_, t, -, -, ht, hgood, hbad⟩ :=
    emBits_body hlen (emAssembled_start bits hwf hones hbyte hbit hpar hfail)
  refine ⟨t, ht, fun hv => ?_, hbad⟩
  obtain ⟨hflag, hstored⟩ := hgood hv
  exact ⟨hflag, fun r j hr hj => hstored r j hj (by omega)⟩

/-! ## Inverted bits -/

/-- Only the bit at row `k / 5` and position `k % 5` is inverted. -/
theorem emBodyBit_invertAt {bits : List Bool} {k : Nat} (hk : k < bits.length) (r : Nat) {j : Nat} (hj : j < 5) :
    emBodyBit (invertAt bits k) r j = (emBodyBit bits r j ^^ (decide (r = k / 5) && decide (j = k % 5))) := by
  have place : (r = k / 5 ∧ j = k % 5) ↔ 5 * r + j = k := by omega
  simp only [← Bool.decide_and, place]
  unfold emBodyBit invertAt
  by_cases h : 5 * r + j = k
  · subst h
    simp [hk]
  · simp [List.getD_eq_getElem?_getD, List.getElem?_set_ne (Ne.symm h), h]

/-- An inverted bit changes the parity of its own row and of no other. -/
theorem emRowXor_invertAt {bits : List Bool} {k : Nat} (hk : k < bits.length) (r : Nat) :
    emRowXor (invertAt bits k) r 5 = (emRowXor bits r 5 ^^ decide (r = k / 5)) := by
  unfold emRowXor
  rw [List.map_congr_left fun j hj => emBodyBit_invertAt hk r (List.mem_range.1 hj)]
  by_cases hr : r = k / 5
  · simp [hr, xorAll_map_range_flip, Nat.mod_lt]
  · simp [hr]

/-- An inverted bit changes the parity of its own column and of no other. -/
theorem emColumnXor_invertAt {bits : List Bool} {k : Nat} (hk : k < bits.length) (h55 : k < 55) {j : Nat} (hj : j < 5) :
    emColumnXor (invertAt bits k) j 11 = (emColumnXor bits j 11 ^^ decide (j = k % 5)) := by
  have hrow : k / 5 < 11 := by omega
  unfold emColumnXor
  simp only [emBodyBit_invertAt hk _ hj]
  by_cases hc : j = k % 5
  · simp [hc, xorAll_map_range_flip, hrow]
  · simp [hc]

theorem length_invertAt (bits : List Bool) (k : Nat) : (invertAt bits k).length = bits.length := List.length_set

/-- Of valid bits only the inverted bit's row, if it is a data row, then has odd parity. -/
theorem emRowXor_invertAt_of_valid {bits : List Bool} (hv : emBodyValid bits = true) {k : Nat} (hk : k < bits.length) {r : Nat}
    (hr : r < 10) : emRowXor (invertAt bits k) r 5 = decide (r = k / 5) := by
  rw [emRowXor_invertAt hk, ((emBodyValid_iff bits).1 hv).1 r hr, Bool.false_xor]

/-- Of valid bits only the inverted bit's column, if it is not the parity column, then has odd parity. -/
theorem emColumnXor_invertAt_of_valid {bits : List Bool} (hv : emBodyValid bits = true) {k : Nat} (hk : k < bits.length)
    (h55 : k < 55) {j : Nat} (hj : j < 4) : emColumnXor (invertAt bits k) j 11 = decide (j = k % 5) := by
  rw [emColumnXor_invertAt hk h55 (by omega), ((emBodyValid_iff bits).1 hv).2 j hj, Bool.false_xor]

/-- The columns of valid bits stay even exactly if the inverted bit is in the column of the parity bits. -/
theorem columns_even_invertAt_iff {bits : List Bool} (hv : emBodyValid bits = true) {k : Nat} (hk : k < bits.length)
    (h55 : k < 55) : (∀ j, j < 4 → emColumnXor (invertAt bits k) j 11 = false) ↔ k % 5 = 4 := by
  constructor
  · intro heven
    by_contra hne
    have hj : k % 5 < 4 := by omega
    simpa [emColumnXor_invertAt_of_valid hv hk h55 hj] using heven _ hj
  · intro hlast j hj
    rw [emColumnXor_invertAt_of_valid hv hk h55 hj, decide_eq_false (by omega)]

/-- Valid bits with one inverted are valid exactly if it is the stop bit, which is in no data row and no checked column
(rule R132). -/
theorem emBodyValid_invertAt {bits : List Bool} (hv : emBodyValid bits = true) {k : Nat} (hk : k < bits.length) (h55 : k < 55) :
    emBodyValid (invertAt bits k) = true ↔ k = 54 := by
  rw [emBodyValid_iff, columns_even_invertAt_iff hv hk h55]
  constructor
  · rintro ⟨heven, hlast⟩
    by_contra hne
    have hr : k / 5 < 10 := by omega
    simpa [emRowXor_invertAt_of_valid hv hk hr] using heven _ hr
  · rintro rfl
    exact ⟨fun r hr => by rw [emRowXor_invertAt_of_valid hv hk hr, decide_eq_false (by omega)], rfl⟩

/-- Inverted corners of a rectangle meet every row and every column an even number of times (rule R132). -/
theorem emBodyValid_invert_rectangle {bits : List Bool} (hlen : bits.length = 55) (hv : emBodyValid bits = true) {r q j l : Nat}
    (hr : r < 10) (hq : q < 10) (hj : j < 4) (hl : l < 4) :
    emBodyValid (invertAt (invertAt (invertAt (invertAt bits (5 * r + j)) (5 * r + l)) (5 * q + j)) (5 * q + l)) = true := by
  obtain ⟨hrows, hcols⟩ := (emBodyValid_iff bits).1 hv
  have row (a b : Nat) (hb : b < 4) : (5 * a + b) / 5 = a := by omega
  have column (a b : Nat) (hb : b < 4) : (5 * a + b) % 5 = b := by omega
  have inside (a b : Nat) (ha : a < 10) (hb : b < 4) : 5 * a + b < 55 := by omega
  rw [emBodyValid_iff]
  refine ⟨fun p hp => ?_, fun c hc => ?_⟩
  · simp only [emRowXor_invertAt, length_invertAt, hlen, inside, row, hrows p hp, hr, hq, hj, hl]
    cases decide (p = r) <;> cases decide (p = q) <;> rfl
  · have hc5 : c < 5 := by omega
    simp only [emColumnXor_invertAt, length_invertAt, hlen, inside, column, hcols c hc, hc5, hr, hq, hj, hl]
    cases decide (c = j) <;> cases decide (c = l) <;> rfl

/-- Settles O51: an inverted bit shows in an odd row or an odd column, unless it is the stop bit; a rectangle shows in none. -/
theorem emSingleBitFlipDetected : Obligations.EmSingleBitFlipDetected := by
  intro bits s hlen hv hwf hones hbyte hbit hpar hfail _
  have body (bits' : List Bool) (hlen' : bits'.length = 55) :=
    emBits_body hlen' (emAssembled_start bits' hwf hones hbyte hbit hpar hfail)
  have accepted (bits' : List Bool) (hlen' : bits'.length = 55) (hv' : emBodyValid bits' = true) :
      ∃ t, emBits bits' s = .ok t ∧ t.flag = .integrityPassed := by
    obtain ⟨_, t, -, -, ht, hgood, -⟩ := body bits' hlen'
    exact ⟨t, ht, (hgood hv').1⟩
  refine ⟨fun k hk => ?_, ?_, fun r q j l hrq hq hjl hl => ?_⟩
  · have hlt : k < bits.length := by omega
    obtain ⟨u, t, hu, hass, ht, -, hbad⟩ := body (invertAt bits k) (by rw [length_invertAt, hlen])
    have hcols : columnsBad u = false ↔ k % 5 = 4 :=
      hass.stored.columnsBad_eq_false_iff.trans (columns_even_invertAt_iff hv hlt (by omega))
    refine ⟨u, t, hu, fun r hr => ?_, ?_, ht, hbad ?_⟩
    · rw [hass.failMap r hr, decide_eq_true hr, Bool.true_and, emRowXor_invertAt_of_valid hv hlt hr]
    · rw [failMapAfterColumns_getLsbD, if_pos rfl, Bool.eq_iff_iff, decide_eq_true_iff, ne_eq, ← hcols, Bool.not_eq_false]
    · rw [← Bool.not_eq_true, emBodyValid_invertAt hv hlt (by omega)]
      omega
  · exact accepted _ (by rw [length_invertAt, hlen]) ((emBodyValid_invertAt hv (by omega) (by omega)).2 rfl)
  · exact accepted _ (by simp only [length_invertAt, hlen])
      (emBodyValid_invert_rectangle hlen hv (by omega) hq (by omega) hl)

end Sys2Proof.Machine
end

section
/-! The operations of the FDX-B decoder: the pulses that carry a bit, FDX_BIT and its three continuations, the CRC and the end
of a frame (rule R152 to rule R160), and what the window shows in ASSEMBLE (rule R163). -/

namespace Sys2Proof.Machine

/-! ## FDX_BIT -/

theorem exec_fdxBit (b : Bool) (s : State) : exec (.fdxBit b) s = answer .silent (fdxBit b s) := rfl

/-- The header test bit by bit: ten zeros in the window, then a 1 (rule R154). -/
theorem headerSeen_eq (b : Bool) (s : State) :
    headerSeen b s = (decide (∀ k : Fin 10, s.tenZ.getLsbD k = false) && b) := by
  have hzero : s.tenZ.extractLsb' 0 10 = 0#10 ↔ ∀ k : Fin 10, s.tenZ.getLsbD k = false := by
    simp [BitVec.eq_of_getLsbD_eq_iff, Fin.forall_iff]
  rw [headerSeen, Bool.beq_eq_decide_eq, decide_eq_decide.2 hzero]

/-- In SEEK_HEADER the bit goes to the header search (rule R154). -/
theorem fdxBit_of_seek {s : State} (h : s.bitCtr.toNat = 10) (b : Bool) :
    fdxBit b s = .ok (fdxSeek (headerSeen b s) { s with tenZ := windowAfter b s }) := by
  have hbit : s.bitCtr = 10#4 := BitVec.eq_of_toNat_eq h
  simp [fdxBit, hbit]

/-- Inside an octet the bit is data (rule R154). -/
theorem fdxBit_of_data {s : State} (h : s.bitCtr.toNat < 8) (b : Bool) :
    fdxBit b s = fdxData b { s with tenZ := windowAfter b s } := by
  have hlt : s.bitCtr < 8#4 := BitVec.lt_def.2 h
  have hne : s.bitCtr ≠ 10#4 := by bv_omega
  simp [fdxBit, hlt, hne]

/-- After an octet the bit is its marker (rule R154). -/
theorem fdxBit_of_marker {s : State} (h : s.bitCtr.toNat = 8) (b : Bool) :
    fdxBit b s = .ok (fdxMarker b { s with tenZ := windowAfter b s }) := by
  have hbit : s.bitCtr = 8#4 := BitVec.eq_of_toNat_eq h
  simp [fdxBit, hbit]

/-- Settles O23: the window after the bit is `windowAfter`, and each range of `bitCtr` has one continuation. -/
theorem fdxBitShiftsAndDispatches : Obligations.FdxBitShiftsAndDispatches := by
  intro b s hbyte hbit
  obtain ⟨t, ht⟩ := fdxBit_ok b s hbyte hbit
  have ends {i : Instr} {s' : State} (h : exec i s' = answer .silent (fdxBit b s)) :
      exec i s' = .next (respond .silent t) := by rw [h, ht]; rfl
  refine ⟨windowAfter b s, respond .silent t, windowAfter_getLsbD b s, ends rfl, fun h => ends ?_, fun h => ends ?_,
    fun h => ends ?_⟩
  · rw [← headerSeen_eq, fdxBit_of_seek h]
    rfl
  · rw [fdxBit_of_data h]
    rfl
  · rw [fdxBit_of_marker h]
    rfl

/-! ## FDX.LONG and FDX.SHORT -/

theorem exec_fdxLong (s : State) : exec .fdxLong s = answer .silent (fdxBit true { s with pulse2 := false }) := rfl

theorem exec_fdxShort (s : State) : exec .fdxShort s = answer .silent (fdxShort s) := rfl

/-- The second half of a 0 emits nothing (rule R153). -/
theorem fdxShort_of_half {s : State} (h : s.pulse2 = true) : fdxShort s = .ok { s with pulse2 := false } := if_pos h

/-- A first half where the marker must stand resyncs (rule R153). -/
theorem fdxShort_of_marker {s : State} (hhalf : s.pulse2 = false) (h : s.bitCtr.toNat = 8) :
    fdxShort s = .ok (resyncFdx s) := by
  have hbit : s.bitCtr = 8#4 := BitVec.eq_of_toNat_eq h
  simp [fdxShort, hhalf, hbit]

/-- Any other first half is FDX_BIT of a 0 (rule R153). -/
theorem fdxShort_of_first {s : State} (hhalf : s.pulse2 = false) (h : s.bitCtr.toNat ≠ 8) :
    fdxShort s = fdxBit false { s with pulse2 := true } := by
  have hbit : s.bitCtr ≠ 8#4 := fun he => h (congrArg BitVec.toNat he)
  simp [fdxShort, hhalf, hbit]

/-- An operation that is FDX_BIT completes, in the counters' ranges, as FDX_BIT does (rule R154). -/
theorem next_of_answer_fdxBit {i : Instr} {s s' : State} {b : Bool} (h : exec i s = answer .silent (fdxBit b s'))
    (hbyte : s'.byteCtr.toNat ≤ 12) (hbit : s'.bitCtr.toNat ≤ 8 ∨ s'.bitCtr.toNat = 10) :
    ∃ t, exec i s = .next t ∧ exec (.fdxBit b) s' = .next t := by
  obtain ⟨t, ht⟩ := fdxBit_ok b s' hbyte hbit
  exact ⟨respond .silent t, by rw [h, ht]; rfl, by rw [exec_fdxBit, ht]; rfl⟩

/-- Settles O22: LONG is FDX_BIT, and SHORT has one equation for each of its three cases. -/
theorem fdxLongAndShort : Obligations.FdxLongAndShort := by
  intro s
  refine ⟨next_of_answer_fdxBit (exec_fdxLong s), fun hhalf => ?_, fun hhalf hbit => ?_, fun hhalf hbyte hbit => ?_⟩
  · exact runsTo_of_answer (by rw [exec_fdxShort, fdxShort_of_half hhalf])
  · exact runsTo_of_answer (t := resyncFdx s) (by rw [exec_fdxShort, fdxShort_of_marker hhalf hbit])
  · exact next_of_answer_fdxBit (by rw [exec_fdxShort, fdxShort_of_first hhalf (by omega)]) hbyte
      (hbit.imp_left Nat.le_of_lt)

/-! ## FDX_SEEK and FDX_MARKER -/

/-- Settles O24: both are one record update; a full octet 12 is success, so the octet that awaits its marker is below it. -/
theorem fdxSeekAndMarker : Obligations.FdxSeekAndMarker := by
  intro s
  refine ⟨⟨.silent, rfl⟩, ⟨.silent, rfl⟩, fun _ hbyte => ⟨s.byteCtr + 1, by bv_omega, .silent, rfl⟩,
    fun hinv hp hbit hflag => ?_⟩
  have hle := hinv.byteCtrLe
  have hne : s.byteCtr ≠ 12#4 := fun hbyte => hflag ((hinv.fdxPassed hp).2 ⟨hbyte, BitVec.eq_of_toNat_eq hbit⟩)
  bv_omega

/-! ## FDX_DATA -/

theorem exec_fdxData (b : Bool) (s : State) : exec (.fdxData b) s = answer .silent (fdxData b s) := rfl

/-- Settles O25: the stored bit is the one bit write, and the position decides what follows it. -/
theorem fdxDataFillsTheOctet : Obligations.FdxDataFillsTheOctet := by
  intro b s hwf hbyte hbit
  refine ⟨_, setsBit_write s.buf _ _ b hwf hbyte (by omega), ?_⟩
  rcases fdxData_cases b s with ⟨hn, -⟩ | ⟨n, rfl, -, -, ⟨h7, h9, he⟩ | ⟨h7, h12, he⟩ | ⟨hmid, he⟩⟩
  · exact absurd ⟨hbyte, by omega⟩ hn
  · rw [h7] at he ⊢
    exact ⟨fun _ _ => ⟨_, by rw [exec_fdxData, he]; rfl, rfl⟩, fun _ _ => by bv_omega,
      fun hmid => (hmid ⟨rfl, .inl (congrArg BitVec.toNat h9)⟩).elim⟩
  · rw [h7] at he ⊢
    exact ⟨fun _ _ => by bv_omega, fun _ _ => ⟨_, by rw [exec_fdxData, he]; rfl, rfl⟩,
      fun hmid => (hmid ⟨rfl, .inr (congrArg BitVec.toNat h12)⟩).elim⟩
  · exact ⟨fun _ _ => by bv_omega, fun _ _ => by bv_omega, fun _ => runsTo_of_answer (by rw [exec_fdxData, he])⟩

/-! ## FDX_CRCCHECK and FDX_FRAMEEND -/

/-- The little-endian value of two bytes as a number (rule R63). -/
theorem le16_toNat (lo hi : Byte) : (le16 lo hi).toNat = 256 * hi.toNat + lo.toNat := by
  have hhi : (hi.zeroExtend 16 <<< 8).toNat = hi.toNat <<< 8 := by
    rw [BitVec.toNat_shiftLeft, BitVec.zeroExtend_eq_setWidth, BitVec.toNat_setWidth_of_le (by decide), Nat.shiftLeft_eq]
    omega
  have hlo : (lo.zeroExtend 16).toNat = lo.toNat := BitVec.toNat_setWidth_of_le (by decide)
  rw [le16, BitVec.toNat_or, hhi, hlo, ← Nat.shiftLeft_add_eq_or_of_lt lo.isLt, Nat.shiftLeft_eq, Nat.mul_comm]

/-- Settles O26: the two verdicts are the two cases of FDX_CRCCHECK, whose test is on the numbers. -/
theorem fdxCrccheckJudgesThePayload : Obligations.FdxCrccheckJudgesThePayload := by
  intro s
  rw [ne_eq, ← le16_toNat, BitVec.toNat_inj]
  rcases fdxCrccheck_cases s with ⟨hgood, he⟩ | ⟨hbad, he⟩
  · exact ⟨fun _ => ⟨.silent, by rw [← he]; rfl⟩, fun h => absurd hgood h⟩
  · exact ⟨fun h => absurd h hbad, fun _ => (⟨.silent, by rw [← he]; rfl⟩ : runsTo .fdxCrccheck s (resyncFdx s))⟩

/-- Settles O27: from octet 9's verdict on the flag is not IN_PROGRESS, and success comes only after bit 7 of octet 12. -/
theorem fdxFrameendPasses : Obligations.FdxFrameendPasses := by
  refine ⟨fun s => ⟨.silent, rfl⟩, fun s hinv hp hbyte hbit => ?_⟩
  rcases hinv.flagStable with hf | hf | ⟨hf, -⟩
  · have := (hinv.fdxPending hp).1 hf
    bv_omega
  · have := (hinv.fdxPassed hp).1 hf
    bv_omega
  · exact hf

/-! ## CRC16 -/

theorem crcShifts_eq_iterate (n : Nat) (c : BitVec 16) : crcShifts n c = crcShift^[n] c := by
  induction n generalizing c with
  | zero => rfl
  | succ n ih => exact ih (crcShift c)

/-- Settles O28: the fold over a longer list takes one byte more, and `crcShift` is the shift written out. -/
theorem crcIsTheBytewiseAlgorithm : Obligations.CrcIsTheBytewiseAlgorithm := by
  refine ⟨rfl, fun bytes b => ?_, fun bytes s => rfl⟩
  calc crc16 (bytes ++ [b]) = crcShifts 8 (crc16 bytes ^^^ b.setWidth 16) := List.foldl_concat _ _ _ _
    _ = crcShift^[8] (crc16 bytes ^^^ b.setWidth 16) := crcShifts_eq_iterate 8 _

/-! ## The header test in ASSEMBLE -/

/-- A 1 among the low ten bits of the window is no header (rule R163). -/
theorem headerSeen_eq_false {s : State} {k : Nat} (hk : k < 10) (hone : s.tenZ.getLsbD k = true) (b : Bool) :
    headerSeen b s = false := by
  have hsome : ¬ ∀ k : Fin 10, s.tenZ.getLsbD k = false := fun hall => by simp [hall ⟨k, hk⟩] at hone
  rw [headerSeen_eq, decide_eq_false hsome, Bool.false_and]

/-- Settles O57: the 1 of the header or of the last marker stands `bitCtr` places up in the window. -/
theorem headerNeverSeenInAssemble : Obligations.HeaderNeverSeenInAssemble := by
  intro s t hinv ht hp hbit
  have hone := (step_keeps_controlInv hinv ht).fdxWindow hp (BitVec.le_def.2 hbit)
  have hk : t.bitCtr.toNat < 10 := by omega
  exact ⟨⟨_, hk, hone⟩, headerSeen_eq_false hk hone⟩

end Sys2Proof.Machine
end

section
/-! The decoder under FDX-B takes no level (rule R164): an EDGE is the same whatever its level, and every event but a READ for
EM4100 leaves the block under FDX-B or disarmed. -/

namespace Sys2Proof.Machine

/-! ## FDX-B operations write decode registers only -/

/-- FDX_DATA writes only decode registers (rule R47, rule R156). -/
theorem fdxData_frame {b : Bool} {s t : State} (ht : fdxData b s = .ok t) : t = s.withDecodeOf t := by
  rcases fdxData_cases b s with ⟨-, he⟩ | ⟨n, rfl, -, -, ⟨-, -, he⟩ | ⟨-, -, he⟩ | ⟨-, he⟩⟩ <;> rw [he] at ht
  · cases ht
  · rcases fdxCrccheck_cases _ with ⟨-, hc⟩ | ⟨-, hc⟩ <;> exact Except.ok.inj (hc ▸ ht) ▸ rfl
  · exact Except.ok.inj ht ▸ rfl
  · exact Except.ok.inj ht ▸ rfl

/-- FDX_BIT writes only decode registers (rule R47, rule R154). -/
theorem fdxBit_frame {b : Bool} {s t : State} (ht : fdxBit b s = .ok t) : t = s.withDecodeOf t := by
  rcases fdxBit_cases b s with ⟨-, he⟩ | ⟨-, he⟩ | ⟨-, he⟩ | ⟨-, -, he⟩ <;> rw [he] at ht
  · obtain rfl := Except.ok.inj ht
    cases headerSeen b s <;> rfl
  · exact (fdxData_frame ht :)
  · exact Except.ok.inj ht ▸ rfl
  · cases ht

/-- FDX_STEP writes only decode registers (rule R47, rule R105). -/
theorem fdxStep_frame {cls : PulseClass} {s t : State} (ht : fdxStep cls s = .ok t) : t = s.withDecodeOf t := by
  cases cls with
  | invalid => exact Except.ok.inj ht ▸ rfl
  | long => exact (fdxBit_frame ht :)
  | short =>
    rcases fdxShort_cases s with ⟨-, he⟩ | ⟨-, -, he⟩ | ⟨-, -, he⟩ <;> rw [fdxStep, he] at ht
    · exact Except.ok.inj ht ▸ rfl
    · exact Except.ok.inj ht ▸ rfl
    · exact (fdxBit_frame ht :)

/-! ## The states in which no level matters -/

/-- The decoder is under FDX-B or takes no edge at all: no level is read (rule R100, rule R105). -/
def LevelUnread (s : State) : Prop := s.protocol = .fdxb ∨ s.armed = false

theorem LevelUnread.withResponse {s : State} (h : LevelUnread s) (r : Resp) : LevelUnread (respond r s) := h

theorem edge_eq_of_levelUnread {s : State} (h : LevelUnread s) (P : Config.Params) (line : Line) (level other : Bool)
    (now : U32) : edge P line level now s = edge P line other now s := by
  rcases h with hp | hdisarmed
  · have hp' : (countEdge now s).protocol = .fdxb := hp
    simp only [edge, decodePulse, dispatch_fdx hp']
  · simp [edge, accepts, hdisarmed]

theorem edge_keeps_levelUnread {P : Config.Params} {line : Line} {level : Bool} {now : U32} {s t : State}
    (h : LevelUnread s) (ht : edge P line level now s = .ok t) : LevelUnread t := by
  rcases edge_cases P line level now s with ⟨-, he⟩ | ⟨-, -, he⟩ | ⟨haccepts, -, he⟩ <;> rw [he] at ht
  · exact Except.ok.inj ht ▸ h
  · exact Except.ok.inj ht ▸ h
  · obtain ⟨harmed, -⟩ := (accepts_eq_true_iff line s).1 haccepts
    have hp : s.protocol = .fdxb := h.resolve_right (by simp [harmed])
    rw [dispatch_fdx (show (countEdge now s).protocol = .fdxb from hp)] at ht
    rw [fdxStep_frame ht]
    exact .inl hp

theorem finish_levelUnread (o : ReadOutcome) (s : State) : LevelUnread (finish o s) := .inr rfl

theorem poll_keeps_levelUnread {s : State} (h : LevelUnread s) : LevelUnread (poll s) := by
  rcases poll_cases s with ⟨-, he⟩ | ⟨-, -, he⟩ | ⟨-, -, he⟩ <;> rw [he]
  · exact finish_levelUnread _ s
  · exact finish_levelUnread _ s
  · exact h

theorem tick_keeps_levelUnread {P : Config.Params} {s : State} (h : LevelUnread s) : LevelUnread (tick P s) := by
  rcases tick_cases P s with ⟨-, he⟩ | ⟨-, he⟩ | ⟨-, he⟩ <;> rw [he]
  · exact h
  · rcases gate_cases P (countMs s) with ⟨-, hg⟩ | ⟨-, -, hg⟩ | ⟨-, -, hg⟩ <;> rw [hg]
    · exact h
    · exact finish_levelUnread _ _
    · exact poll_keeps_levelUnread (s := { countMs s with sess := .wait }) h
  · exact poll_keeps_levelUnread (s := countMs s) h

theorem read_fdxb_keeps_levelUnread {P : Config.Params} {c : BitVec 2} {cd rt : U32} {s : State} (h : LevelUnread s) :
    LevelUnread (read P .fdxb c cd rt s) := by
  rcases read_cases P .fdxb c cd rt s with ⟨-, he⟩ | ⟨-, he⟩ <;> rw [he]
  · exact h
  · exact .inl rfl

theorem shut_keeps_levelUnread {s : State} (h : LevelUnread s) : LevelUnread (shut s) := by
  rcases shut_cases s with ⟨-, he⟩ | ⟨-, he⟩ <;> rw [he] <;> exact h

/-- Every event but a READ for EM4100 keeps it: a READ selects FDX-B, and RESET and the end of a session disarm. -/
theorem exec_event_keeps_levelUnread {i : Instr} {s t : State} (hi : i.isEvent = true)
    (hread : ∀ c cd rt, i ≠ .read .em4100 c cd rt) (h : LevelUnread s) (ht : exec i s = .next t) : LevelUnread t := by
  have of_next {u : State} (hu : LevelUnread u) (he : Host.Outcome.next u = exec i s) : LevelUnread t :=
    Host.Outcome.next.inj (he.trans ht) ▸ hu
  cases i with
  | nop | rdbuf | reserved6 => exact of_next (h.withResponse _) rfl
  | edge line level now =>
    obtain ⟨u, hu, rfl⟩ := (answer_next _ _ _).1 ht
    exact (edge_keeps_levelUnread h hu).withResponse .silent
  | tick => exact of_next ((tick_keeps_levelUnread h).withResponse .silent) rfl
  | read p c cd rt =>
    cases p with
    | em4100 => exact absurd rfl (hread c cd rt)
    | fdxb => exact of_next (read_fdxb_keeps_levelUnread h) rfl
  | shut => exact of_next (shut_keeps_levelUnread h) rfl
  | reset => exact of_next (.inr rfl) rfl
  | _ => cases hi

/-! ## Traces -/

/-- Two events that differ in the level of an edge at most. -/
def EqualUpToLevel (i j : Instr) : Prop :=
  i = j ∨ ∃ line level other now, i = .edge line level now ∧ j = .edge line other now

theorem exec_eq_of_equalUpToLevel {i j : Instr} {s : State} (h : LevelUnread s) (hij : EqualUpToLevel i j) :
    exec i s = exec j s := by
  rcases hij with rfl | ⟨line, level, other, now, rfl, rfl⟩
  · rfl
  · rw [exec_edge, exec_edge, edge_eq_of_levelUnread h params line level other now]

/-- Settles O56, by induction on the pair of traces: the first events agree, and leave a state in which no level matters. -/
theorem fdxLevelIsUnused : Obligations.FdxLevelIsUnused := by
  intro es fs s (h : LevelUnread s) hes (hpairs : List.Forall₂ EqualUpToLevel es fs)
  induction hpairs generalizing s with
  | nil => rfl
  | @cons i j es fs hij _ ih =>
    obtain ⟨⟨hi, hread⟩, hes⟩ := List.forall_mem_cons.1 hes
    rw [execAll, execAll, ← exec_eq_of_equalUpToLevel h hij]
    cases ht : exec i s with
    | next t => exact ih t (exec_event_keeps_levelUnread hi hread h ht) hes
    | fault f => rfl
    | refused r => rfl

end Sys2Proof.Machine
end

section
/-! The antenna controller: what its operations write (rule R180, rule R181, rule R183), and that the session's antenna is the
only one that runs at a step boundary (rule R184). -/

namespace Sys2Proof.Machine

/-! ## The operations -/

theorem exec_antEnable (c : BitVec 2) (s : State) : exec (.antEnable c) s = .next (respond .silent (antEnable c s)) := rfl

theorem exec_antDisableAll (s : State) : exec .antDisableAll s = .next (respond .silent (antDisableAll s)) := rfl

theorem exec_shut (s : State) : exec .shut s = .next (shut s) := rfl

/-- ANT_ENABLE sets both lines: circuit 1's is 0 exactly for `c = 1`, circuit 2's otherwise (rule R180). -/
theorem runsTo_antEnable (c : BitVec 2) (s : State) :
    runsTo (.antEnable c) s { s with antC := decide (c ≠ 1#2), antD := decide (c = 1#2) } :=
  ⟨.silent, by rw [exec_antEnable, antEnable_eq]; rfl⟩

/-- Settles O31: ANT_ENABLE at its two circuits, and the two cases of SHUT. -/
theorem antennaOperationsAndShut : Obligations.AntennaOperationsAndShut := by
  intro s
  refine ⟨runsTo_antEnable 1 s, runsTo_antEnable 2 s, ⟨.silent, exec_antDisableAll s⟩, ?_⟩
  rcases shut_cases s with ⟨hbusy, he⟩ | ⟨hidle, he⟩ <;> rw [exec_shut, he]
  · exact ⟨fun _ => rfl, fun hidle => absurd hidle hbusy⟩
  · exact ⟨fun hbusy => absurd hidle hbusy, fun _ => rfl⟩

/-! ## The lines at a step boundary -/

/-- The three settings of the shutdown lines: both off when idle, else the antenna of the session's circuit on (rule R184). -/
theorem ControlInv.antenna_cases {s : State} (h : ControlInv s) :
    (s.sess = .idle ∧ s.antC = true ∧ s.antD = true) ∨
    (s.sess ≠ .idle ∧ s.circuit = 1#2 ∧ s.antC = false ∧ s.antD = true) ∨
    (s.sess ≠ .idle ∧ s.circuit = 2#2 ∧ s.antC = true ∧ s.antD = false) := by
  have hlines := h.antennas
  by_cases hidle : s.sess = .idle
  · rw [if_pos hidle] at hlines
    exact .inl ⟨hidle, Prod.mk.inj hlines⟩
  · rw [if_neg hidle] at hlines
    rcases h.circuitLegal.2 hidle with hc | hc <;> rw [hc] at hlines
    · exact .inr (.inl ⟨hidle, hc, Prod.mk.inj hlines⟩)
    · exact .inr (.inr ⟨hidle, hc, Prod.mk.inj hlines⟩)

/-- Settles O32: the step keeps the invariant, which leaves the lines three settings. -/
theorem antennasMutuallyExclusive : Obligations.AntennasMutuallyExclusive := by
  intro s t hinv ht
  rcases (step_keeps_controlInv hinv ht).antenna_cases with
    ⟨hsess, hC, hD⟩ | ⟨hsess, hcircuit, hC, hD⟩ | ⟨hsess, hcircuit, hC, hD⟩
  · simp [hsess, hC, hD]
  · simp [hsess, hcircuit, hC, hD]
  · simp [hsess, hcircuit, hC, hD]

end Sys2Proof.Machine
end

section
/-! The read session: READ and its arming (rule R190 to rule R192), TICK in its three forms (rule R193 to rule R195), FINISH
(rule R196), and how a running session ends (rule R200, rule R201). -/

namespace Sys2Proof.Machine

/-! ## READ and FINISH -/

theorem exec_read (p : Protocol) (c : BitVec 2) (cd rt : U32) (s : State) :
    exec (.read p c cd rt) s = .next (read params p c cd rt s) := rfl

theorem exec_readAccept (p : Protocol) (c : BitVec 2) (cd rt : U32) (s : State) :
    exec (.readAccept p c cd rt) s = .next (respond .silent (readAccept p c cd rt s)) := rfl

/-- Settles O33: `read_cases` with the bounds as numbers. -/
theorem readAcceptance : Obligations.ReadAcceptance := by
  intro p c cd rt s
  rw [exec_read]
  rcases read_cases params p c cd rt s with ⟨hn, he⟩ | ⟨hl, he⟩ <;> rw [he]
  · exact ⟨fun hl => absurd hl hn, fun _ => rfl⟩
  · exact ⟨fun _ => ⟨readAccept p c cd rt s, .silent, rfl, rfl⟩, fun hn => absurd hl hn⟩

/-- ARMCLEAR as one record, whichever protocol it takes (rule R192). -/
theorem armclear_eq (p : Protocol) (s : State) :
    armclear p s = { s with
      lastEdge := 0, pulseCount := 0, protocol := p
      byteCtr := 0, bitCtr := if p = .em4100 then 4 else 10, flag := .inProgress, buf := []
      ones := 0, rowPar := false, failMap := 0, longSeen := false, emHalf := false, tenZ := 0xFFFF, pulse2 := false } := by
  cases p <;> rfl

/-- Of the two legal circuits, the one that is not 1 is 2 (rule R180). -/
theorem legalCircuit_ne_one_iff {c : BitVec 2} (h : legalCircuit c) : c ≠ 1#2 ↔ c = 2#2 := by
  rcases h with rfl | rfl <;> decide

/-- Settles O34: both operations are one record update. -/
theorem readAcceptArms : Obligations.ReadAcceptArms := by
  refine ⟨fun p c cd rt s hc => ⟨.silent, ?_⟩, fun p s => ⟨.silent, ?_⟩, fun _ => rfl⟩
  · simp only [exec_readAccept, readAccept_eq, armclear_eq, legalCircuit_ne_one_iff hc]
    rfl
  · exact congrArg (fun t => Host.Outcome.next (respond .silent t)) (armclear_eq p s)

/-- Settles O37: FINISH is one record update. -/
theorem finishEndsTheSession : Obligations.FinishEndsTheSession := fun _ _ => ⟨.silent, rfl⟩

/-! ## TICK -/

theorem exec_tick (s : State) : exec .tick s = .next (respond .silent (tick params s)) := rfl

theorem tick_of_idle {s : State} (h : s.sess = .idle) (P : Config.Params) : tick P s = s := by rw [tick, h]

theorem tick_of_check {s : State} (h : s.sess = .check) (P : Config.Params) : tick P s = gate P (countMs s) := by
  rw [tick, h, tickCheck]

theorem tick_of_wait {s : State} (h : s.sess = .wait) (P : Config.Params) : tick P s = poll (countMs s) := by
  rw [tick, h, tickWait]

/-- Settles O5: the five answer nothing and write nothing. -/
theorem operationsWithoutEffect : Obligations.OperationsWithoutEffect := by
  refine fun s => ⟨rfl, fun hidle => ?_, ⟨.silent, rfl⟩, ⟨.silent, rfl⟩, ⟨.silent, rfl⟩⟩
  rw [exec_tick, tick_of_idle hidle, respond]

theorem poll_of_passed {s : State} (h : s.flag = .integrityPassed) : poll s = finish .tagDecoded s := if_pos h

theorem poll_of_deadline {s : State} (h : s.flag ≠ .integrityPassed) (hrt : s.rt ≤ s.msCount) :
    poll s = finish .noTag s := by
  rw [poll, if_neg h, if_pos hrt]

theorem poll_of_lt {s : State} (h : s.flag ≠ .integrityPassed) (hrt : s.msCount < s.rt) : poll s = s := by
  rw [poll, if_neg h, if_neg (BitVec.not_le.2 hrt)]

theorem gate_of_lt {s : State} (h : s.msCount < s.cd) (P : Config.Params) : gate P s = s :=
  if_neg (BitVec.not_le.2 h)

theorem gate_of_few_edges {P : Config.Params} {s : State} (h : s.cd ≤ s.msCount) (hp : s.pulseCount ≤ s.cd - P.gateMargin) :
    gate P s = finish .noTag s := by
  simp only [gate, gateFails, if_pos h, decide_eq_true hp, if_true]

theorem gate_of_enough_edges {P : Config.Params} {s : State} (h : s.cd ≤ s.msCount)
    (hp : s.cd - P.gateMargin < s.pulseCount) : gate P s = poll { s with sess := .wait } := by
  simp only [gate, gateFails, if_pos h, decide_eq_false (BitVec.not_le.2 hp), Bool.false_eq_true, if_false]

/-- A millisecond counted below a bound is the next number (rule R194, rule R195). -/
theorem toNat_add_one_of_lt {ms bound : U32} (h : ms.toNat < bound.toNat) : (ms + 1).toNat = ms.toNat + 1 := by bv_omega

/-- TICK.CHECK, alone or by the event, is the gate on the counted millisecond. -/
theorem exec_eq_gate_in_check {i : Instr} {s : State} (hi : i = .tickCheck ∨ (i = .tick ∧ s.sess = .check)) :
    exec i s = answer .silent (.ok (gate params (countMs s))) := by
  rcases hi with rfl | ⟨rfl, hs⟩
  · rfl
  · rw [exec_tick, tick_of_check hs]
    rfl

/-- TICK.WAIT, alone or by the event, is the poll on the counted millisecond. -/
theorem exec_eq_poll_in_wait {i : Instr} {s : State} (hi : i = .tickWait ∨ (i = .tick ∧ s.sess = .wait)) :
    exec i s = answer .silent (.ok (poll (countMs s))) := by
  rcases hi with rfl | ⟨rfl, hs⟩
  · rfl
  · rw [exec_tick, tick_of_wait hs]
    rfl

/-- An operation that ends in POLL, by its three cases (rule R195). -/
theorem runsTo_poll {i : Instr} {s u : State} (h : exec i s = answer .silent (.ok (poll u))) :
    (u.flag = .integrityPassed → runsTo i s (finish .tagDecoded u)) ∧
    (u.flag ≠ .integrityPassed → u.rt ≤ u.msCount → runsTo i s (finish .noTag u)) ∧
    (u.flag ≠ .integrityPassed → u.msCount < u.rt → runsTo i s u) := by
  refine ⟨fun hf => ?_, fun hf hrt => ?_, fun hf hrt => ?_⟩
  · exact runsTo_of_answer (poll_of_passed hf ▸ h)
  · exact runsTo_of_answer (poll_of_deadline hf hrt ▸ h)
  · exact runsTo_of_answer (poll_of_lt hf hrt ▸ h)

/-- Settles O35, by the count against `cd`, then the gate, then the poll. -/
theorem tickCheckGates : Obligations.TickCheckGates := by
  intro i s hi hmargin hrt
  have hexec := exec_eq_gate_in_check hi
  rw [← toNat_add_one_of_lt hrt, ← BitVec.toNat_sub_of_le (BitVec.le_def.2 hmargin)]
  refine ⟨fun hlt => ?_, fun hcd hfew => ?_, fun hcd hmany => ?_⟩
  · rw [gate_of_lt (s := countMs s) hlt] at hexec
    exact runsTo_of_answer hexec
  · rw [gate_of_few_edges (s := countMs s) hcd hfew] at hexec
    exact runsTo_of_answer hexec
  · rw [gate_of_enough_edges (s := countMs s) hcd hmany] at hexec
    exact runsTo_poll hexec

/-- Settles O36: TICK in WAIT is the poll. -/
theorem tickWaitPolls : Obligations.TickWaitPolls := by
  intro i s hi hrt
  rw [← toNat_add_one_of_lt hrt]
  exact runsTo_poll (exec_eq_poll_in_wait hi)

/-! ## The events of a running session -/

/-! ### EDGE completes, and moves no session register -/

theorem emBit_ok {s : State} (h : EmDecoderInv s) (b : Bool) : ∃ t, emBit b s = .ok t := by
  rcases emBit_cases b s with ⟨-, he⟩ | ⟨-, he⟩ | ⟨hones, -⟩
  · exact ⟨_, he⟩
  · have hbyte := h.byteCtrLe
    have hbit := h.bitCtrLe
    rw [he]
    exact emBitStore_ok b s (by bv_omega) (by bv_omega)
  · exact absurd hones (BitVec.not_lt.2 h.onesLe)

theorem emStep_ok {s : State} (h : EmDecoderInv s) (cls : PulseClass) (level : Bool) : ∃ t, emStep cls level s = .ok t := by
  cases cls with
  | invalid => exact ⟨_, rfl⟩
  | long => exact emBit_ok (h.withHalf rfl false) level
  | short =>
    rcases emShort_cases level s with ⟨-, he⟩ | ⟨-, -, he⟩ | ⟨hlong, -, he⟩ <;> rw [emStep, he]
    · exact ⟨_, rfl⟩
    · exact ⟨_, rfl⟩
    · exact emBit_ok (h.withHalf hlong false) level

theorem fdxStep_ok {s : State} (h : FdxDecoderInv s) (cls : PulseClass) : ∃ t, fdxStep cls s = .ok t := by
  have hbyte : s.byteCtr.toNat ≤ 12 := h.byteCtrLe
  have hbit : s.bitCtr.toNat ≤ 8 ∨ s.bitCtr.toNat = 10 := h.bitCtrRange.imp id (congrArg BitVec.toNat)
  cases cls with
  | invalid => exact ⟨_, rfl⟩
  | long => exact fdxBit_ok true { s with pulse2 := false } hbyte hbit
  | short =>
    rcases fdxShort_cases s with ⟨-, he⟩ | ⟨-, -, he⟩ | ⟨-, -, he⟩ <;> rw [fdxStep, he]
    · exact ⟨_, rfl⟩
    · exact ⟨_, rfl⟩
    · exact fdxBit_ok false { s with pulse2 := true } hbyte hbit

/-- A dispatched pulse completes and moves only decode registers (rule R47, rule R105). -/
theorem dispatch_next {s : State} (h : ControlInv s) (hflag : s.flag ≠ .integrityPassed) (cls : PulseClass) (level : Bool) :
    ∃ t, dispatch cls level s = .ok (s.withDecodeOf t) := by
  cases hp : s.protocol with
  | em4100 =>
    obtain ⟨-, hd⟩ := (controlInv_iff_em hp).1 h
    obtain ⟨t, ht⟩ := emStep_ok hd cls level
    exact ⟨t, by rw [dispatch_em hp, ht, ← (emStep_keeps_emDecoderInv hd hflag ht).2]⟩
  | fdxb =>
    obtain ⟨-, hd⟩ := (controlInv_iff_fdx hp).1 h
    obtain ⟨t, ht⟩ := fdxStep_ok hd cls
    exact ⟨t, by rw [dispatch_fdx hp, ht, ← fdxStep_frame ht]⟩

/-- EDGE completes and moves only decode registers (rule R47, rule R100). -/
theorem edge_next {s : State} (h : ControlInv s) (P : Config.Params) (line : Line) (level : Bool) (now : U32) :
    ∃ t, edge P line level now s = .ok (s.withDecodeOf t) := by
  rcases edge_cases P line level now s with ⟨-, he⟩ | ⟨-, -, he⟩ | ⟨-, hflag, he⟩
  · exact ⟨s, he⟩
  · exact ⟨countEdge now s, he⟩
  · obtain ⟨t, ht⟩ := dispatch_next (countEdge_keeps_controlInv h now) hflag (classAt P now s) level
    exact ⟨t, he.trans ht⟩

/-! ### The other events -/

theorem exec_shut_of_busy {s : State} (hbusy : s.sess ≠ .idle) : exec .shut s = .next { s with resp := .reject } := by
  rcases shut_cases s with ⟨-, he⟩ | ⟨hidle, -⟩
  · rw [exec_shut, he]
  · exact absurd hidle hbusy

theorem exec_read_of_busy {s : State} (hbusy : s.sess ≠ .idle) (p : Protocol) (c : BitVec 2) (cd rt : U32) :
    exec (.read p c cd rt) s = .next { s with resp := .reject } := by
  rcases read_cases params p c cd rt s with ⟨-, he⟩ | ⟨⟨hidle, -⟩, -⟩
  · rw [exec_read, he]
  · exact absurd hidle hbusy

/-- While a session runs, an event other than TICK and RESET completes and moves only decode registers and the response
(rule R47, rule R201). -/
theorem exec_event_of_busy {i : Instr} {s : State} (hi : i.isEvent = true) (h : ControlInv s) (hbusy : s.sess ≠ .idle)
    (htick : i ≠ .tick) (hreset : i ≠ .reset) : ∃ t r, exec i s = .next (respond r (s.withDecodeOf t)) := by
  cases i with
  | nop | rdbuf | reserved6 => exact ⟨s, _, rfl⟩
  | edge line level now =>
    obtain ⟨t, ht⟩ := edge_next h params line level now
    exact ⟨t, .silent, by rw [exec_edge, ht, answer]⟩
  | read p c cd rt => exact ⟨s, .reject, exec_read_of_busy hbusy p c cd rt⟩
  | shut => exact ⟨s, .reject, exec_shut_of_busy hbusy⟩
  | tick => exact absurd rfl htick
  | reset => exact absurd rfl hreset
  | _ => cases hi

/-! ### TICK -/

/-- A running session is below its deadline (rule R46, rule R194, rule R195). -/
theorem ControlInv.msCount_lt_rt {s : State} (h : ControlInv s) (hbusy : s.sess ≠ .idle) : s.msCount < s.rt := by
  obtain ⟨-, hcdrt⟩ := h.durations hbusy
  cases hs : s.sess with
  | idle => exact absurd hs hbusy
  | check => exact Nat.lt_of_lt_of_le (h.sessTime.1 hs) hcdrt
  | wait => exact (h.sessTime.2 hs).2

/-- Why the TICK after `s` may end the session with each outcome: a passed flag; the failed gate at `cd`, or the deadline
without a passed flag (rule R194, rule R195). -/
def FinishReason (s : State) : ReadOutcome → Prop
  | .tagDecoded => s.flag = .integrityPassed
  | .noTag =>
    (s.sess = .check ∧ s.msCount + 1 = s.cd ∧ s.pulseCount ≤ s.cd - params.gateMargin) ∨
    (s.msCount + 1 = s.rt ∧ s.flag ≠ .integrityPassed)

/-- What the TICK after `s` leaves: the session ended for a reason, not before `cd`, or the millisecond counted and the session
still running (rule R194, rule R195). -/
def EndsOrGoesOn (s t : State) : Prop :=
  (∃ o, t = finish o (countMs s) ∧ s.cd ≤ s.msCount + 1 ∧ FinishReason s o) ∨
  (∃ phase, phase ≠ .idle ∧ t = { countMs s with sess := phase })

/-- The poll of a TICK at `cd` or later (rule R195). -/
theorem poll_endsOrGoesOn {s : State} (hlt : s.msCount < s.rt) (hcd : s.cd ≤ s.msCount + 1) :
    EndsOrGoesOn s (poll { countMs s with sess := .wait }) := by
  rcases poll_cases { countMs s with sess := .wait } with ⟨hf, he⟩ | ⟨hf, hrt, he⟩ | ⟨-, -, he⟩
  · exact .inl ⟨.tagDecoded, he, hcd, hf⟩
  · exact .inl ⟨.noTag, he, hcd, .inr ⟨BitVec.le_antisymm (countMs_le hlt) hrt, hf⟩⟩
  · exact .inr ⟨.wait, nofun, he⟩

/-- Everything a TICK of a running session can do (rule R194, rule R195). -/
theorem tick_endsOrGoesOn {s : State} (h : ControlInv s) (hbusy : s.sess ≠ .idle) : EndsOrGoesOn s (tick params s) := by
  have hlt := h.msCount_lt_rt hbusy
  cases hs : s.sess with
  | idle => exact absurd hs hbusy
  | check =>
    rw [tick_of_check hs]
    rcases gate_cases params (countMs s) with ⟨-, hg⟩ | ⟨hcd, hfew, hg⟩ | ⟨hcd, -, hg⟩ <;> rw [hg]
    · exact .inr ⟨s.sess, hbusy, rfl⟩
    · exact .inl ⟨.noTag, rfl, hcd, .inl ⟨hs, BitVec.le_antisymm (countMs_le (h.sessTime.1 hs)) hcd, hfew⟩⟩
    · exact poll_endsOrGoesOn hlt hcd
  | wait =>
    have hcount : countMs s = { countMs s with sess := .wait } := by rw [← hs]; rfl
    have hcd : s.cd ≤ s.msCount + 1 := by
      obtain ⟨hcd, -⟩ := h.sessTime.2 hs
      bv_omega
    rw [tick_of_wait hs, hcount]
    exact poll_endsOrGoesOn hlt hcd

/-- Settles O40: events other than TICK and RESET move no session register, and a TICK ends the session for a reason. -/
theorem onlyTickOrResetEndsASession : Obligations.OnlyTickOrResetEndsASession := by
  intro i s t hi h hbusy ht
  refine ⟨fun hidle => ?_, ?_, ?_⟩
  · by_contra hother
    obtain ⟨htick, hreset⟩ := not_or.1 hother
    obtain ⟨u, r, hu⟩ := exec_event_of_busy hi h hbusy htick hreset
    obtain rfl := Host.Outcome.next.inj (hu.symm.trans ht)
    exact hbusy hidle
  · rintro rfl hidle
    obtain rfl := Host.Outcome.next.inj ((exec_tick s).symm.trans ht)
    rcases tick_endsOrGoesOn h hbusy with ⟨o, he, -, ho⟩ | ⟨phase, hphase, he⟩ <;> rw [he] at hidle ⊢
    · obtain ⟨hmargin, -⟩ := h.durations hbusy
      cases o with
      | tagDecoded => exact ⟨rfl, fun _ => ho, nofun⟩
      | noTag =>
        refine ⟨rfl, nofun, fun _ => ho.imp_left fun ⟨hs, hms, hfew⟩ => ⟨hs, hms, ?_⟩⟩
        exact BitVec.toNat_sub_of_le hmargin ▸ BitVec.le_def.1 hfew
    · exact absurd hidle hphase
  · rintro (rfl | ⟨p, c, cd, rt, rfl⟩)
    · exact Host.Outcome.next.inj (ht.symm.trans (exec_shut_of_busy hbusy))
    · exact Host.Outcome.next.inj (ht.symm.trans (exec_read_of_busy hbusy p c cd rt))

/-! ## The time bound -/

/-- The session of `s` is over in `u`, all of the `ticks` TICKs between them counted, between `cd` and `rt` (rule R200). -/
structure SessionOver (s : State) (ticks : Nat) (u : State) : Prop where
  idle : u.sess = .idle
  done : u.done = true
  disarmed : u.armed = false
  counted : u.msCount.toNat = s.msCount.toNat + ticks
  cdLe : s.cd.toNat ≤ u.msCount.toNat
  leRt : u.msCount.toNat ≤ s.rt.toNat

/-- The session of `s` still runs in `t`, with its durations and `ticks` more milliseconds. -/
structure SessionRuns (s : State) (ticks : Nat) (t : State) : Prop where
  busy : t.sess ≠ .idle
  cd : t.cd = s.cd
  rt : t.rt = s.rt
  counted : t.msCount.toNat = s.msCount.toNat + ticks

theorem SessionRuns.trans_over {s t u : State} {m n : Nat} (h : SessionRuns s m t) (hu : SessionOver t n u) :
    SessionOver s (m + n) u :=
  { hu with
    counted := by rw [hu.counted, h.counted, Nat.add_assoc]
    cdLe := h.cd ▸ hu.cdLe
    leRt := h.rt ▸ hu.leRt }

/-- A TICK of a running session is counted, and the session is over or runs on. -/
theorem tick_over_or_runs {s : State} (h : ControlInv s) (hbusy : s.sess ≠ .idle) :
    SessionOver s 1 (tick params s) ∨ SessionRuns s 1 (tick params s) := by
  have hlt := h.msCount_lt_rt hbusy
  have hms : (s.msCount + 1).toNat = s.msCount.toNat + 1 := toNat_add_one_of_lt (BitVec.lt_def.1 hlt)
  rcases tick_endsOrGoesOn h hbusy with ⟨o, he, hcd, -⟩ | ⟨phase, hphase, he⟩ <;> rw [he]
  · exact .inl ⟨rfl, rfl, rfl, hms, hcd, countMs_le hlt⟩
  · exact .inr ⟨hphase, rfl, rfl, hms⟩

/-- After any event but RESET a running session is over or runs on, with that event's TICK counted. -/
theorem exec_event_over_or_runs {i : Instr} {s : State} (hi : i.isEvent = true) (hreset : i ≠ .reset) (h : ControlInv s)
    (hbusy : s.sess ≠ .idle) :
    ∃ t, exec i s = .next t ∧ (SessionOver s ([i].count .tick) t ∨ SessionRuns s ([i].count .tick) t) := by
  by_cases htick : i = .tick
  · subst htick
    exact ⟨_, exec_tick s, (tick_over_or_runs h hbusy).imp (fun hover => { hover with }) (fun hruns => { hruns with })⟩
  · obtain ⟨t, r, ht⟩ := exec_event_of_busy hi h hbusy htick hreset
    have hcount : [i].count .tick = 0 := List.count_eq_zero.2 (by simpa using Ne.symm htick)
    rw [hcount]
    exact ⟨_, ht, .inr ⟨hbusy, rfl, rfl, rfl⟩⟩

theorem execAll_cons_of_next {i : Instr} {s t : State} (h : exec i s = .next t) (is : List Instr) :
    execAll (i :: is) s = execAll is t := by
  rw [execAll, h]

/-- A running session is over by the TICK that reaches `rt`, whatever other events come (rule R200). -/
theorem exists_sessionOver {es : List Instr} {s : State} (h : ControlInv s) (hbusy : s.sess ≠ .idle)
    (hes : ∀ i ∈ es, i.isEvent = true ∧ i ≠ .reset) (hticks : s.rt.toNat - s.msCount.toNat ≤ es.count .tick) :
    ∃ n u, execAll (es.take n) s = .next u ∧ SessionOver s ((es.take n).count .tick) u := by
  induction es generalizing s with
  | nil =>
    have hlt : s.msCount.toNat < s.rt.toNat := h.msCount_lt_rt hbusy
    rw [List.count_nil] at hticks
    omega
  | cons i es ih =>
    obtain ⟨⟨hi, hreset⟩, hes⟩ := List.forall_mem_cons.1 hes
    have hcount (l : List Instr) : (i :: l).count .tick = [i].count .tick + l.count .tick := List.count_append (l₁ := [i])
    obtain ⟨t, ht, hover | hruns⟩ := exec_event_over_or_runs hi hreset h hbusy
    · exact ⟨1, t, execAll_cons_of_next ht [], hover⟩
    · have hleft : t.rt.toNat - t.msCount.toNat ≤ es.count .tick := by
        rw [hruns.rt, hruns.counted]
        rw [hcount] at hticks
        omega
      obtain ⟨n, u, hu, hover⟩ := ih (exec_event_keeps_controlInv hi h ht) hruns.busy hes hleft
      refine ⟨n + 1, u, (execAll_cons_of_next ht _).trans hu, ?_⟩
      rw [List.take_succ_cons, hcount]
      exact hruns.trans_over hover

/-- Settles O41: each event counts its TICK and ends the session or leaves it running below `rt`. -/
theorem sessionEndsByReadTime : Obligations.SessionEndsByReadTime := by
  intro es s h hbusy hes hticks
  obtain ⟨n, u, hu, hover⟩ := exists_sessionOver h hbusy hes hticks
  exact ⟨n, u, hu, hover.idle, hover.done, hover.disarmed, hover.counted, hover.cdLe, hover.leRt⟩

end Sys2Proof.Machine
end

section
/-! The frame views: each is a number or a string of the buffer's octets (rule R220 to rule R226), and none changes a
register. -/

namespace Sys2Proof.Machine

/-- Octet `i` of the views' `raw` is octet `i` of the buffer (rule R36). -/
theorem rawByte_rawFrame {i : Nat} (h : i < 13) (s : State) : rawByte (rawFrame s) i = s.buf.read i := by
  simp [rawByte, rawFrame, memRead, h]

/-! ## Words packed from octets -/

/-- The word `x` is the number `n`, and only its `k` low bits are in use. -/
structure Packs {w : Nat} (x : BitVec w) (n k : Nat) : Prop where
  toNat_eq : x.toNat = n
  lt : n < 2 ^ k

theorem packs_zeroExtend {w m : Nat} {b : Byte} (hb : b.toNat < 2 ^ m) (hm : m ≤ w) : Packs (b.zeroExtend w) b.toNat m where
  toNat_eq := (BitVec.toNat_setWidth _ _).trans (Nat.mod_eq_of_lt (hb.trans_le (Nat.pow_le_pow_right Nat.two_pos hm)))
  lt := hb

/-- An `m`-bit piece OR-ed in above the bits in use is added at their place value. -/
theorem Packs.or_shifted {w n k m : Nat} {x : BitVec w} {b : Byte} (hx : Packs x n k) (hb : b.toNat < 2 ^ m)
    (hm : k + m ≤ w) : Packs (x ||| b.zeroExtend w <<< k) (n + 2 ^ k * b.toNat) (k + m) := by
  have hfit : n + 2 ^ k * b.toNat < 2 ^ (k + m) :=
    calc n + 2 ^ k * b.toNat < 2 ^ k * (b.toNat + 1) := by have := hx.lt; rw [Nat.mul_add_one]; omega
      _ ≤ 2 ^ (k + m) := by rw [Nat.pow_add]; exact Nat.mul_le_mul_left _ hb
  have hword : 2 ^ (k + m) ≤ 2 ^ w := Nat.pow_le_pow_right Nat.two_pos hm
  have hpiece : (b.zeroExtend w <<< k).toNat = 2 ^ k * b.toNat := by
    rw [BitVec.toNat_shiftLeft, (packs_zeroExtend hb (by omega)).toNat_eq, Nat.shiftLeft_eq, Nat.mul_comm]
    exact Nat.mod_eq_of_lt (by omega)
  refine ⟨?_, hfit⟩
  rw [BitVec.toNat_or, hpiece, hx.toNat_eq, Nat.or_comm, ← Nat.two_pow_add_eq_or_of_lt hx.lt, Nat.add_comm]

theorem packs_rawAt_zero {w : Nat} (raw : List Byte) (i : Nat) (hw : 8 ≤ w) :
    Packs (rawAt w raw i 0) (rawByte raw i).toNat 8 := by
  rw [rawAt, BitVec.shiftLeft_zero]
  exact packs_zeroExtend (rawByte raw i).isLt hw

theorem Packs.or_rawAt {w n k : Nat} {x : BitVec w} (hx : Packs x n k) (raw : List Byte) (i : Nat) (hw : k + 8 ≤ w) :
    Packs (x ||| rawAt w raw i k) (n + 2 ^ k * (rawByte raw i).toNat) (k + 8) :=
  hx.or_shifted (rawByte raw i).isLt hw

/-! ## Hexadecimal digits -/

theorem hexDigit_mod (n : Nat) : hexDigit (n % 16) = "0123456789ABCDEF".toList.getD (n % 16) ' ' := by
  have hdigits : ∀ d < 16, hexDigit d = "0123456789ABCDEF".toList.getD d ' ' := by decide
  exact hdigits _ (Nat.mod_lt _ (by decide))

/-- Digit `k` of `d`, the most significant first, has the place value `16 ^ (d - 1 - k)` (rule R222, rule R226). -/
theorem hexDigits_eq_map (d n : Nat) :
    hexDigits d n = (List.range d).map fun k => "0123456789ABCDEF".toList.getD (n / 16 ^ (d - 1 - k) % 16) ' ' := by
  induction d generalizing n with
  | zero => rfl
  | succ d ih =>
    rw [hexDigits, ih, hexDigit_mod, List.range_succ, List.map_append]
    refine congrArg₂ _ (List.map_congr_left fun k hk => ?_) (by simp)
    have hplace : d + 1 - 1 - k = d - 1 - k + 1 := by have := List.mem_range.1 hk; omega
    rw [hplace, Nat.pow_succ', Nat.div_div_eq_div_mul]

theorem hexDigits_two (b : Byte) :
    hexDigits 2 b.toNat =
      ["0123456789ABCDEF".toList.getD (b.toNat / 16) ' ', "0123456789ABCDEF".toList.getD (b.toNat % 16) ' '] := by
  have hhigh : b.toNat / 16 % 16 = b.toNat / 16 := Nat.mod_eq_of_lt (by omega)
  rw [hexDigits, hexDigits, hexDigits, hexDigit_mod, hexDigit_mod, hhigh]
  rfl

/-! ## The EM4100 views -/

theorem emNibble_getLsbD (raw : List Byte) (r j : Nat) :
    (emNibble raw r).getLsbD j = (decide (j < 4) && (rawByte raw r).getLsbD (j + 1)) := by
  have hmask : (0xF#8).getLsbD j = decide (j < 4) := by
    rw [show 0xF#8 = (BitVec.allOnes 4).setWidth 8 from rfl, BitVec.getLsbD_setWidth, BitVec.getLsbD_allOnes]
    simpa using fun h : j < 4 => (by omega : j < 8)
  rw [emNibble, BitVec.getLsbD_and, BitVec.getLsbD_ushiftRight, hmask, Bool.and_comm, Nat.add_comm]

/-- The low half of a payload byte is bits 4 to 1 of the odd row, the high half those of the even row (rule R220). -/
theorem emByte_getLsbD (raw : List Byte) (k : Nat) {j : Nat} (hj : j < 8) :
    (emByte raw k).getLsbD j =
      if j < 4 then (rawByte raw (2 * k + 1)).getLsbD (j + 1) else (rawByte raw (2 * k)).getLsbD (j - 3) := by
  rw [emByte, BitVec.getLsbD_or, BitVec.getLsbD_shiftLeft, emNibble_getLsbD, emNibble_getLsbD]
  by_cases hlow : j < 4
  · simp [hlow]
  · have hrow : j - 4 + 1 = j - 3 := by omega
    simp [hlow, hj, hrow, show j - 4 < 4 by omega]

theorem emPayload_getD (raw : List Byte) {k : Nat} (hk : k < 5) : (emPayload raw).getD k 0#8 = emByte raw k := by
  simp [emPayload, hk]

/-- EM_ID is the number of payload bytes 1 to 4, the first the most significant (rule R221). -/
theorem emId_toNat (raw : List Byte) :
    (emId raw).toNat = 2 ^ 24 * (emByte raw 1).toNat + 2 ^ 16 * (emByte raw 2).toNat + 2 ^ 8 * (emByte raw 3).toNat +
      (emByte raw 4).toNat := by
  have hlittle : emId raw = (emByte raw 4).zeroExtend 32 ||| (emByte raw 3).zeroExtend 32 <<< 8 |||
      (emByte raw 2).zeroExtend 32 <<< 16 ||| (emByte raw 1).zeroExtend 32 <<< 24 := by
    rw [emId, BitVec.or_comm (_ ||| _ ||| _), BitVec.or_comm (_ ||| _), BitVec.or_comm ((emByte raw 1).zeroExtend 32 <<< 24),
      BitVec.or_assoc, BitVec.or_assoc]
  have hpacks := packs_zeroExtend (w := 32) (emByte raw 4).isLt (by decide)
    |>.or_shifted (emByte raw 3).isLt (by decide)
    |>.or_shifted (emByte raw 2).isLt (by decide)
    |>.or_shifted (emByte raw 1).isLt (by decide)
  rw [hlittle, hpacks.toNat_eq]
  omega

theorem emHex_eq (raw : List Byte) :
    emHex raw = (emPayload raw).flatMap fun p =>
      ["0123456789ABCDEF".toList.getD (p.toNat / 16) ' ', "0123456789ABCDEF".toList.getD (p.toNat % 16) ' '] :=
  congrArg (emPayload raw).flatMap (funext hexDigits_two)

/-- Settles O42: the payload bytes are the views' own, read bit by bit, as a number and as digits. -/
theorem emViewsReadTheRows : Obligations.EmViewsReadTheRows := by
  intro s
  refine ⟨emByte (rawFrame s) 0, emByte (rawFrame s) 1, emByte (rawFrame s) 2, emByte (rawFrame s) 3, emByte (rawFrame s) 4,
    fun k j hk hj => ?_, rfl, rfl, emId (rawFrame s), emHex (rawFrame s), emId_toNat _, emHex_eq _, rfl, rfl, rfl⟩
  calc ((emPayload (rawFrame s)).getD k 0#8).getLsbD j
    _ = (emByte (rawFrame s) k).getLsbD j := by rw [emPayload_getD _ hk]
    _ = _ := by rw [emByte_getLsbD _ _ hj, rawByte_rawFrame (by omega), rawByte_rawFrame (by omega)]

/-! ## The FDX-B views -/

/-- FDX_ANIMAL takes octets 0 to 3 and the 6 low bits of octet 4 (rule R223). -/
theorem fdxAnimal_toNat (raw : List Byte) :
    (fdxAnimal raw).toNat = (rawByte raw 0).toNat + 2 ^ 8 * (rawByte raw 1).toNat + 2 ^ 16 * (rawByte raw 2).toNat +
      2 ^ 24 * (rawByte raw 3).toNat + 2 ^ 32 * ((rawByte raw 4).toNat % 64) := by
  have hmask : (rawByte raw 4 &&& 0x3F#8).toNat = (rawByte raw 4).toNat % 64 := Nat.and_two_pow_sub_one_eq_mod _ 6
  have hpacks := packs_rawAt_zero (w := 38) raw 0 (by decide)
    |>.or_rawAt raw 1 (by decide) |>.or_rawAt raw 2 (by decide) |>.or_rawAt raw 3 (by decide)
    |>.or_shifted (m := 6) (b := rawByte raw 4 &&& 0x3F#8) (by omega) (by decide)
  rw [fdxAnimal, hpacks.toNat_eq, hmask]

/-- FDX_COUNTRY takes octet 5 above the 2 high bits of octet 4 (rule R224). -/
theorem fdxCountry_toNat (raw : List Byte) :
    (fdxCountry raw).toNat = 4 * (rawByte raw 5).toNat + (rawByte raw 4).toNat / 64 := by
  have hshift : (rawByte raw 4 >>> 6).toNat = (rawByte raw 4).toNat / 64 := Nat.shiftRight_eq_div_pow _ 6
  have hpacks := packs_zeroExtend (w := 10) (m := 2) (b := rawByte raw 4 >>> 6) (by omega) (by decide)
    |>.or_rawAt raw 5 (by decide)
  rw [fdxCountry, BitVec.or_comm, hpacks.toNat_eq, hshift]
  omega

theorem fdxExt24_toNat (raw : List Byte) :
    (fdxExt24 raw).toNat = (rawByte raw 10).toNat + 2 ^ 8 * (rawByte raw 11).toNat + 2 ^ 16 * (rawByte raw 12).toNat :=
  (packs_rawAt_zero (w := 24) raw 10 (by decide) |>.or_rawAt raw 11 (by decide) |>.or_rawAt raw 12 (by decide)).toNat_eq

theorem fdxId64_toNat (raw : List Byte) :
    (fdxId64 raw).toNat = (rawByte raw 0).toNat + 2 ^ 8 * (rawByte raw 1).toNat + 2 ^ 16 * (rawByte raw 2).toNat +
      2 ^ 24 * (rawByte raw 3).toNat + 2 ^ 32 * (rawByte raw 4).toNat + 2 ^ 40 * (rawByte raw 5).toNat +
      2 ^ 48 * (rawByte raw 6).toNat + 2 ^ 56 * (rawByte raw 7).toNat :=
  (packs_rawAt_zero (w := 64) raw 0 (by decide) |>.or_rawAt raw 1 (by decide) |>.or_rawAt raw 2 (by decide)
    |>.or_rawAt raw 3 (by decide) |>.or_rawAt raw 4 (by decide) |>.or_rawAt raw 5 (by decide) |>.or_rawAt raw 6 (by decide)
    |>.or_rawAt raw 7 (by decide)).toNat_eq

theorem fdxIdlow_toNat (raw : List Byte) : (fdxIdlow raw).toNat = (fdxAnimal raw).toNat % 2 ^ 32 := by
  have hmask : (fdxAnimal raw &&& 0xFFFFFFFF#38).toNat = (fdxAnimal raw).toNat % 2 ^ 32 :=
    Nat.and_two_pow_sub_one_eq_mod _ 32
  rw [fdxIdlow, BitVec.toNat_setWidth, hmask, Nat.mod_mod]

theorem fdxStr_eq (raw : List Byte) :
    fdxStr raw =
      ((List.range 3).map fun k => "0123456789ABCDEF".toList.getD ((fdxCountry raw).toNat / 16 ^ (2 - k) % 16) ' ') ++ ['.'] ++
      ((List.range 10).map fun k => "0123456789ABCDEF".toList.getD ((fdxAnimal raw).toNat / 16 ^ (9 - k) % 16) ' ') := by
  rw [fdxStr, hexDigits_eq_map, hexDigits_eq_map]

/-- Settles O43: each view is its number of the octets, and the string that of the two numbers. -/
theorem fdxViewsReadTheOctets : Obligations.FdxViewsReadTheOctets := by
  intro s
  have hraw {i : Nat} (h : i < 13) : s.buf.read i = rawByte (rawFrame s) i := (rawByte_rawFrame h s).symm
  have hcrc : (fdxCrcfield (rawFrame s)).toNat = 2 ^ 8 * (s.buf.read 9).toNat + (s.buf.read 8).toNat := le16_toNat _ _
  refine ⟨fdxAnimal (rawFrame s), fdxCountry (rawFrame s), fdxExt24 (rawFrame s), fdxCrcfield (rawFrame s),
    fdxId64 (rawFrame s), fdxIdlow (rawFrame s), fdxStr (rawFrame s), ?animal, ?country, ?ext24, hcrc, ?id,
    fdxIdlow_toNat _, rfl, rfl, rfl, rfl, rfl, rfl, rfl, fdxStr_eq _, rfl, rfl⟩
  case animal => simp only [hraw, fdxAnimal_toNat, Nat.reduceLT]
  case country => simp only [hraw, fdxCountry_toNat, Nat.reduceLT]
  case ext24 => simp only [hraw, fdxExt24_toNat, Nat.reduceLT]
  case id => simp only [hraw, fdxId64_toNat, Nat.reduceLT]

end Sys2Proof.Machine
end

section
/-! The rejections of rule R242: an event turned away by its operation, and an event word that matches no row of the opcode
table. -/

namespace Sys2Proof

/-! ## The rows of the opcode table, by kind and reserved field -/

/-- The row of the events of kind `k` whose reserved field is the `n` bits from bit `lo` (rule R81). -/
def EventRow.ofReserved (k : BitVec 3) (lo n : Nat) : EventRow :=
  ⟨field 69 k, field 69 (BitVec.allOnes 3) ||| field lo (BitVec.allOnes n)⟩

theorem getLsbD_of_extractLsb' {w lo n : Nat} {x : BitVec w} {v : BitVec n} (h : x.extractLsb' lo n = v) {i : Nat} (hlo : lo ≤ i)
    (hn : i - lo < n) : x.getLsbD i = v.getLsbD (i - lo) := by
  rw [← h, BitVec.getLsbD_extractLsb', Nat.add_sub_cancel' hlo, decide_eq_true hn, Bool.true_and]

/-- The row's mask keeps the kind and the reserved field, which are what its pattern fixes. -/
theorem matches_ofReserved {w : EventWord} {k : BitVec 3} {lo n : Nat} (hk : eventKind w = k)
    (hzero : w.extractLsb' lo n = 0#n) : (EventRow.ofReserved k lo n).matches w = true := by
  refine beq_iff_eq.2 (BitVec.eq_of_getLsbD_eq fun i hi => ?_)
  simp only [EventRow.ofReserved, BitVec.getLsbD_and, BitVec.getLsbD_or, field_getLsbD, BitVec.getLsbD_allOnes]
  by_cases htop : 69 ≤ i
  · have hlt : i - 69 < 3 := by omega
    simp only [getLsbD_of_extractLsb' hk htop hlt, hi, htop, hlt, decide_true, Bool.true_and, Bool.true_or, Bool.and_true]
  · by_cases hfield : lo ≤ i ∧ i - lo < n
    · simp only [getLsbD_of_extractLsb' hzero hfield.1 hfield.2, htop, BitVec.getLsbD_zero, decide_false, Bool.false_and,
        Bool.and_false]
    · have hout : (decide (lo ≤ i) && decide (i - lo < n)) = false := by simpa using hfield
      simp only [Bool.and_assoc, hout, htop, decide_false, Bool.false_and, Bool.and_false, Bool.or_false]

theorem exists_matches_of_unlessReserved {w : EventWord} {k : BitVec 3} {lo n : Nat} {i j : Instr} (hk : eventKind w = k)
    (h : unlessReserved w (w.extractLsb' lo n == 0#n) j = .ok i) (hrow : EventRow.ofReserved k lo n ∈ eventRows) :
    ∃ r ∈ eventRows, r.matches w = true := by
  unfold unlessReserved at h
  split at h
  next hzero => exact ⟨_, hrow, matches_ofReserved hk (beq_iff_eq.1 hzero)⟩
  next => cases h

/-- A word the decoder accepts matches the row of its kind (rule R90). -/
theorem exists_matches_of_decode {w : EventWord} {i : Instr} (h : decode w = .ok i) : ∃ r ∈ eventRows, r.matches w = true := by
  unfold decode at h
  split_ifs at h with h0 h1 h2 h3 h4 h5 h6
  · exact exists_matches_of_unlessReserved h0 h (by decide)
  · exact exists_matches_of_unlessReserved h1 h (by decide)
  · exact exists_matches_of_unlessReserved h2 h (by decide)
  · exact exists_matches_of_unlessReserved h3 h (by decide)
  · exact exists_matches_of_unlessReserved h4 h (by decide)
  · exact exists_matches_of_unlessReserved h5 h (by decide)
  · exact ⟨.ofReserved 6 0 0, by decide, matches_ofReserved h6 BitVec.of_length_zero⟩
  · have h7 : eventKind w = 7#3 := by bv_omega
    exact exists_matches_of_unlessReserved h7 h (by decide)

end Sys2Proof

namespace Sys2Proof.Machine

theorem decode_of_kind_six {w : EventWord} (h : eventKind w = 6#3) : decode w = .ok (.reserved6 (w.extractLsb' 0 69)) := by
  simp [decode, h]

theorem exec_reserved6 (x : BitVec 69) (s : State) : exec (.reserved6 x) s = .next { s with resp := .reject } := rfl

theorem exec_read_of_cause {c : BitVec 2} {cd rt : U32} {s : State}
    (h : s.sess ≠ .idle ∨ c = 0#2 ∨ c = 3#2 ∨ cd < params.gateMargin ∨ rt < cd) (p : Protocol) :
    exec (.read p c cd rt) s = .next { s with resp := .reject } := by
  rcases read_cases params p c cd rt s with ⟨-, he⟩ | ⟨⟨hidle, hc, hcd, hrt⟩, -⟩
  · rw [exec_read, he]
  · exfalso
    rcases h with hbusy | rfl | rfl | hlow | hshort
    · exact hbusy hidle
    · exact absurd hc (by decide)
    · exact absurd hc (by decide)
    · exact absurd hlow (BitVec.not_lt.2 hcd)
    · exact absurd hshort (BitVec.not_lt.2 hrt)

/-- A pending word of kind 6, or one no row matches, is rejected at the step (rule R90). -/
theorem step_of_rejected {w : EventWord} {s : State} {rest : List EventWord} (hw : s.events = w :: rest)
    (h : eventKind w = 6#3 ∨ ∀ r ∈ eventRows, r.matches w = false) :
    step s = .next { s with events := rest, resp := .reject } := by
  rcases step_cases s with ⟨hnil, -⟩ | ⟨w', rest', i, hcons, hdec, hstep⟩ | ⟨w', rest', e, hcons, -, hstep⟩
  · rw [hw] at hnil
    cases hnil
  · obtain ⟨rfl, rfl⟩ := List.cons.inj (hw.symm.trans hcons)
    rcases h with hsix | hnone
    · obtain rfl := Except.ok.inj (hdec.symm.trans (decode_of_kind_six hsix))
      rw [hstep, exec_reserved6]
    · obtain ⟨r, hr, hmatch⟩ := exists_matches_of_decode hdec
      exact absurd hmatch (by simp [hnone r hr])
  · obtain ⟨rfl, rfl⟩ := List.cons.inj (hw.symm.trans hcons)
    exact hstep

/-- Settles O6: each operation's own rejection, and the step's for a word that is no event to run. -/
theorem rejectionsChangeNothing : Obligations.RejectionsChangeNothing :=
  ⟨fun p _ _ _ _ h => exec_read_of_cause h p, fun _ hbusy => exec_shut_of_busy hbusy, exec_reserved6, fun _ => ⟨rfl, rfl⟩,
    fun _ _ _ hw h => step_of_rejected hw h⟩

end Sys2Proof.Machine
end

section
/-! RESET: it is accepted in every state with no response, and every register holds its reset value (rule R270). -/

namespace Sys2Proof.Machine

theorem exec_reset (s : State) : exec .reset s = .next (respond .silent (resetState s)) := rfl

/-- Settles O7: the answer is RESET's assignments with the silent response, and the empty buffer reads 0x00 at every index. -/
theorem resetRestoresEveryRegister : Obligations.ResetRestoresEveryRegister := fun s =>
  ⟨respond .silent (resetState s), exec_reset s, by
    simp only [respond_writes, respond_keeps, resetState_writes, Memory.read_nil, BitVec.ofNat_eq_ofNat, implies_true, and_self]⟩

end Sys2Proof.Machine
end

section
/-! The event word's decoder and encoder: each encoder's word decodes to its event, a word that decodes is put together from its
fields, and the decoder accepts exactly the rows of the opcode table (rule R80 to rule R86, rule R90, rule R96). -/

namespace Sys2Proof

/-! ## Fields of a word -/

/-- Reading a field where it was put. -/
@[simp] theorem extractLsb'_field_same {n : Nat} (k : Nat) (v : BitVec n) (h : k + n ≤ 72) :
    (field k v).extractLsb' k n = v := by
  refine BitVec.eq_of_getLsbD_eq fun i hi => ?_
  simp [hi, show k + i < 72 by omega]

/-- Reading bits that a field does not cover. -/
theorem extractLsb'_field_of_disjoint {n k lo m : Nat} (v : BitVec n) (h : lo + m ≤ k ∨ k + n ≤ lo) :
    (field k v).extractLsb' lo m = 0#m := by
  refine BitVec.eq_of_getLsbD_eq fun i hi => ?_
  rw [BitVec.getLsbD_extractLsb', field_getLsbD, BitVec.getLsbD_zero]
  rcases h with h | h
  · simp [show ¬ k ≤ lo + i by omega]
  · simp [BitVec.getLsbD_of_ge v (lo + i - k) (by omega)]

theorem field_zero (k n : Nat) : field k (0#n) = 0#72 := by
  simp [field]

/-- A field of `m + n` bits is its `n` high bits and its `m` low bits. -/
theorem field_extractLsb'_add (w : EventWord) (lo m n : Nat) :
    field lo (w.extractLsb' lo (m + n)) = field (lo + m) (w.extractLsb' (lo + m) n) ||| field lo (w.extractLsb' lo m) := by
  refine BitVec.eq_of_getLsbD_eq fun i hi => ?_
  simp only [BitVec.getLsbD_or, field_getLsbD, BitVec.getLsbD_extractLsb', hi, decide_true, Bool.true_and]
  by_cases hlo : lo ≤ i
  · by_cases hm : i < lo + m
    · simp [hlo, show lo + (i - lo) = i by omega, show i - lo < m + n by omega, show i - lo < m by omega,
        show ¬ lo + m ≤ i by omega]
    · simp [hlo, show lo + (i - lo) = i by omega, show ¬ i - lo < m by omega, show lo + m ≤ i by omega,
        show lo + m + (i - (lo + m)) = i by omega, show (i - lo < m + n) ↔ (i - (lo + m) < n) by omega]
  · simp [hlo, show ¬ lo + m ≤ i by omega]

/-- A word is its kind and the 69 bits below it. -/
theorem eq_kind_or_low (w : EventWord) : w = field 69 (eventKind w) ||| field 0 (w.extractLsb' 0 69) := by
  calc w = field 0 (w.extractLsb' 0 (69 + 3)) := by simp [field]
    _ = _ := field_extractLsb'_add w 0 69 3

/-- One bit of a word as a field. -/
theorem extractLsb'_one (w : EventWord) (k : Nat) : w.extractLsb' k 1 = bitVecOfBool (w.getLsbD k) := by
  refine BitVec.eq_of_getLsbD_eq fun i hi => ?_
  obtain rfl : i = 0 := by omega
  simp [bitVecOfBool]

@[simp] theorem bitVecOfBool_getElem_zero (b : Bool) : (bitVecOfBool b)[0] = b := by simp [bitVecOfBool]

@[simp] theorem lineOfBit_bit (l : Line) : lineOfBit l.bit = l := by cases l <;> rfl

@[simp] theorem bit_lineOfBit (b : Bool) : (lineOfBit b).bit = b := by cases b <;> rfl

@[simp] theorem protocolOfBit_bit (p : Protocol) : protocolOfBit p.bit = p := by cases p <;> rfl

@[simp] theorem bit_protocolOfBit (b : Bool) : (protocolOfBit b).bit = b := by cases b <;> rfl

theorem unlessReserved_eq_ok {w : EventWord} {z : Bool} {i j : Instr} : unlessReserved w z i = .ok j ↔ z = true ∧ i = j := by
  cases z <;> simp [unlessReserved]

/-! ## Encoder and decoder -/

/-- The kind of an event's word is the code of its row; a row without a word has no code (rule R80). -/
theorem map_eventKind_encode (i : Instr) : (encode i).map eventKind = eventCode i := by
  cases i with
  | nop => exact Laws.KindField.nop
  | edge line level now => exact Laws.KindField.edge line level now
  | tick => exact Laws.KindField.tick
  | read p c cd rt => exact Laws.KindField.read p c cd rt
  | shut => exact Laws.KindField.shut
  | rdbuf idx => exact Laws.KindField.rdbuf idx
  | reserved6 payload => exact Laws.KindField.reserved6 payload
  | reset => exact Laws.KindField.reset
  | _ => rfl

theorem eventKind_of_encode {i : Instr} {w : EventWord} {k : BitVec 3} (hw : encode i = some w) (hk : eventCode i = some k) :
    eventKind w = k := by
  have h := map_eventKind_encode i
  rwa [hw, hk, Option.map_some, Option.some.injEq] at h

/-- An event's word decodes to the event, operands and all (rule R80 to rule R86, rule R96). -/
theorem exists_encode_of_isEvent {i : Instr} (h : i.isEvent = true) : ∃ w, encode i = some w ∧ decode w = .ok i := by
  have kind {w : EventWord} {k : BitVec 3} := eventKind_of_encode (i := i) (w := w) (k := k)
  cases i with
  | nop | tick | shut | reset =>
    exact ⟨_, rfl, by simp [decode, unlessReserved, extractLsb'_field_of_disjoint]⟩
  | edge | read | rdbuf | reserved6 =>
    refine ⟨_, rfl, ?_⟩
    simp [decode, kind rfl rfl, unlessReserved, BitVec.extractLsb'_or, extractLsb'_field_of_disjoint]
  | _ => cases h

/-- The 69 bits below the kind of an EDGE (rule R82). -/
theorem low_eq_edge_fields {w : EventWord} (h : w.extractLsb' 32 35 = 0#35) :
    field 0 (w.extractLsb' 0 69) =
      field 68 (bitVecOfBool (w.getLsbD 68)) ||| field 67 (bitVecOfBool (w.getLsbD 67)) ||| field 0 (w.extractLsb' 0 32) := by
  calc field 0 (w.extractLsb' 0 69)
    _ = field 68 (w.extractLsb' 68 1) ||| field 0 (w.extractLsb' 0 68) := field_extractLsb'_add w 0 68 1
    _ = field 68 (w.extractLsb' 68 1) ||| (field 67 (w.extractLsb' 67 1) ||| field 0 (w.extractLsb' 0 67)) := by
      rw [field_extractLsb'_add w 0 67 1]
    _ = field 68 (w.extractLsb' 68 1) ||| (field 67 (w.extractLsb' 67 1) |||
        (field 32 (w.extractLsb' 32 35) ||| field 0 (w.extractLsb' 0 32))) := by
      rw [field_extractLsb'_add w 0 32 35]
    _ = _ := by rw [h, field_zero, BitVec.zero_or, extractLsb'_one, extractLsb'_one, BitVec.or_assoc]

/-- The 69 bits below the kind of a READ (rule R84). -/
theorem low_eq_read_fields {w : EventWord} (h : w.extractLsb' 64 2 = 0#2) :
    field 0 (w.extractLsb' 0 69) =
      field 68 (bitVecOfBool (w.getLsbD 68)) ||| field 66 (w.extractLsb' 66 2) ||| field 32 (w.extractLsb' 32 32) |||
        field 0 (w.extractLsb' 0 32) := by
  calc field 0 (w.extractLsb' 0 69)
    _ = field 68 (w.extractLsb' 68 1) ||| field 0 (w.extractLsb' 0 68) := field_extractLsb'_add w 0 68 1
    _ = field 68 (w.extractLsb' 68 1) ||| (field 66 (w.extractLsb' 66 2) ||| field 0 (w.extractLsb' 0 66)) := by
      rw [field_extractLsb'_add w 0 66 2]
    _ = field 68 (w.extractLsb' 68 1) ||| (field 66 (w.extractLsb' 66 2) |||
        (field 64 (w.extractLsb' 64 2) ||| (field 32 (w.extractLsb' 32 32) ||| field 0 (w.extractLsb' 0 32)))) := by
      rw [field_extractLsb'_add w 0 64 2, field_extractLsb'_add w 0 32 32]
    _ = _ := by rw [h, field_zero, BitVec.zero_or, extractLsb'_one, BitVec.or_assoc, BitVec.or_assoc]

/-- The 69 bits below the kind of an RDBUF (rule R86). -/
theorem low_eq_rdbuf_field {w : EventWord} (h : w.extractLsb' 4 65 = 0#65) :
    field 0 (w.extractLsb' 0 69) = field 0 (w.extractLsb' 0 4) := by
  calc field 0 (w.extractLsb' 0 69)
    _ = field 4 (w.extractLsb' 4 65) ||| field 0 (w.extractLsb' 0 4) := field_extractLsb'_add w 0 4 65
    _ = _ := by rw [h, field_zero, BitVec.zero_or]

/-- A word with kind `k` and its other bits given. -/
theorem kind_or_eq {w low : EventWord} {k : BitVec 3} (hk : eventKind w = k) (hlow : field 0 (w.extractLsb' 0 69) = low) :
    field 69 k ||| low = w := by
  rw [← hk, ← hlow, ← eq_kind_or_low]

/-- A word that is its kind alone. -/
theorem kind_eq {w : EventWord} {k : BitVec 3} (hk : eventKind w = k) (hzero : w.extractLsb' 0 69 = 0#69) :
    field 69 k = w := by
  rw [← BitVec.or_zero (x := field 69 k)]
  exact kind_or_eq hk (by rw [hzero, field_zero])

/-- A word that decodes is the word of what it decodes to (rule R81). -/
theorem encode_of_decode {w : EventWord} {i : Instr} (h : decode w = .ok i) : encode i = some w := by
  unfold decode at h
  split_ifs at h with h0 h1 h2 h3 h4 h5 h6
  · obtain ⟨hz, rfl⟩ := unlessReserved_eq_ok.1 h
    exact congrArg some (kind_eq h0 (beq_iff_eq.1 hz))
  · obtain ⟨hz, rfl⟩ := unlessReserved_eq_ok.1 h
    simp only [encode, bit_lineOfBit, BitVec.or_assoc]
    exact congrArg some (kind_or_eq h1 ((low_eq_edge_fields (beq_iff_eq.1 hz)).trans (BitVec.or_assoc ..)))
  · obtain ⟨hz, rfl⟩ := unlessReserved_eq_ok.1 h
    exact congrArg some (kind_eq h2 (beq_iff_eq.1 hz))
  · obtain ⟨hz, rfl⟩ := unlessReserved_eq_ok.1 h
    simp only [encode, bit_protocolOfBit, BitVec.or_assoc]
    exact congrArg some (kind_or_eq h3 ((low_eq_read_fields (beq_iff_eq.1 hz)).trans (by simp only [BitVec.or_assoc])))
  · obtain ⟨hz, rfl⟩ := unlessReserved_eq_ok.1 h
    exact congrArg some (kind_eq h4 (beq_iff_eq.1 hz))
  · obtain ⟨hz, rfl⟩ := unlessReserved_eq_ok.1 h
    exact congrArg some (kind_or_eq h5 (low_eq_rdbuf_field (beq_iff_eq.1 hz)))
  · obtain rfl := Except.ok.inj h
    exact congrArg some (kind_or_eq h6 rfl)
  · obtain ⟨hz, rfl⟩ := unlessReserved_eq_ok.1 h
    exact congrArg some (kind_eq (by bv_omega) (beq_iff_eq.1 hz))

theorem encode_of_not_isEvent {i : Instr} (h : i.isEvent = false) : encode i = none := by
  cases i with
  | nop | edge | tick | read | shut | rdbuf | reserved6 | reset => cases h
  | _ => rfl

/-- Settles O1: the encoder's fields are read back where they were put, and an accepted word has no other bits. -/
theorem decodeAndEncodeAgree : Obligations.DecodeAndEncodeAgree :=
  ⟨fun _ => exists_encode_of_isEvent, fun _ _ h => ⟨Machine.isEvent_of_decode h, encode_of_decode h⟩,
    fun _ => encode_of_not_isEvent⟩

/-- Settles O3, each word by running the decoder. -/
theorem specEventWordsDecode : Obligations.SpecEventWordsDecode := by
  unfold Obligations.SpecEventWordsDecode
  decide

/-! ## The rows of the opcode table -/

/-- A word matches its kind's row exactly when its reserved field is 0 (rule R81, rule R90). -/
theorem matches_ofReserved_iff {w : EventWord} {k : BitVec 3} {lo n : Nat} (h : lo + n ≤ 69) :
    (EventRow.ofReserved k lo n).matches w = true ↔ eventKind w = k ∧ w.extractLsb' lo n = 0#n := by
  refine ⟨fun hm => ?_, fun ⟨hk, hzero⟩ => matches_ofReserved hk hzero⟩
  have bit (i : Nat) := congrArg (BitVec.getLsbD · i) (beq_iff_eq.1 hm)
  simp only [EventRow.ofReserved, BitVec.getLsbD_and, BitVec.getLsbD_or, field_getLsbD, BitVec.getLsbD_allOnes] at bit
  constructor
  · refine BitVec.eq_of_getLsbD_eq fun i hi => ?_
    simpa [eventKind, hi, show 69 + i < 72 by omega] using bit (69 + i)
  · refine BitVec.eq_of_getLsbD_eq fun i hi => ?_
    simpa [hi, show lo + i < 72 by omega, show ¬ 69 ≤ lo + i by omega] using bit (lo + i)

/-- The eight rows, each by its kind and its reserved field. -/
theorem eventRows_eq :
    eventRows = [.ofReserved 0 0 69, .ofReserved 1 32 35, .ofReserved 2 0 69, .ofReserved 3 64 2, .ofReserved 4 0 69,
      .ofReserved 5 4 65, .ofReserved 6 0 0, .ofReserved 7 0 69] := by
  decide

/-- A word that matches a row is accepted (rule R90). -/
theorem exists_decode_of_matches {w : EventWord} {r : EventRow} (hr : r ∈ eventRows) (hm : r.matches w = true) :
    ∃ i, decode w = .ok i := by
  rw [eventRows_eq] at hr
  simp only [List.mem_cons, List.not_mem_nil, or_false] at hr
  rcases hr with rfl | rfl | rfl | rfl | rfl | rfl | rfl | rfl
  all_goals
    obtain ⟨hk, hz⟩ := (matches_ofReserved_iff (by decide)).1 hm
    simp [decode, hk, hz, unlessReserved]

/-- A matching row's pattern has the word's kind, which every row's mask keeps. -/
theorem eventKind_pattern {w : EventWord} {r : EventRow} (hr : r ∈ eventRows) (hm : r.matches w = true) :
    eventKind r.pattern = eventKind w := by
  have hmask : ∀ r ∈ eventRows, eventKind r.mask = BitVec.allOnes 3 := by decide
  calc eventKind r.pattern
    _ = eventKind (w &&& r.mask) := by rw [← beq_iff_eq.1 hm]
    _ = eventKind w &&& eventKind r.mask := BitVec.extractLsb'_and
    _ = eventKind w := by rw [hmask r hr, BitVec.and_allOnes]

/-- The kind tells the rows apart. -/
theorem eventRow_eq_of_matches {w : EventWord} {r q : EventRow} (hr : r ∈ eventRows) (hq : q ∈ eventRows)
    (hrw : r.matches w = true) (hqw : q.matches w = true) : r = q := by
  have hkinds : ∀ r ∈ eventRows, ∀ q ∈ eventRows, eventKind r.pattern = eventKind q.pattern → r = q := by decide
  exact hkinds r hr q hq ((eventKind_pattern hr hrw).trans (eventKind_pattern hq hqw).symm)

theorem eventCode_of_decode {w : EventWord} {i : Instr} (h : decode w = .ok i) : eventCode i = some (eventKind w) := by
  rw [← map_eventKind_encode, encode_of_decode h, Option.map_some]

/-- Settles O2: a row is its kind and a field that must be 0, which is what the decoder tests. -/
theorem decoderAcceptsExactlyTheTableRows : Obligations.DecoderAcceptsExactlyTheTableRows :=
  ⟨fun _ => ⟨fun ⟨_, h⟩ => exists_matches_of_decode h, fun ⟨_, hr, hm⟩ => exists_decode_of_matches hr hm⟩,
    fun _ _ _ hr hq => eventRow_eq_of_matches hr hq, fun _ _ => eventCode_of_decode⟩

end Sys2Proof
end

section
/-! The frames of the decoders (rule R47, rule R65): an EM4100 operation writes the shared decode registers and the EM4100 ones, an
FDX-B operation the shared and the FDX-B ones, and of the buffer only the bit at `(byteCtr, bitCtr)`. -/

namespace Sys2Proof.Machine

/-! ## What each decoder may write -/

/-- `s` with the registers of `t` that an EM4100 operation may write (rule R47). -/
def State.withEmOf (s t : State) : State :=
  { s with
    byteCtr := t.byteCtr, bitCtr := t.bitCtr, flag := t.flag, ones := t.ones, rowPar := t.rowPar, failMap := t.failMap
    longSeen := t.longSeen, emHalf := t.emHalf, buf := t.buf }

/-- `s` with the registers of `t` that an FDX-B operation may write (rule R47). -/
def State.withFdxOf (s t : State) : State :=
  { s with byteCtr := t.byteCtr, bitCtr := t.bitCtr, flag := t.flag, tenZ := t.tenZ, pulse2 := t.pulse2, buf := t.buf }

/-- The buffer `m` has the bits of `s`, but for the one at `(byteCtr, bitCtr)`. -/
def KeepsOtherBits (s : State) (m : Memory) : Prop :=
  ∀ j n, ¬ (j = s.byteCtr.toNat ∧ n = s.bitCtr.toNat) → (m.read j).getLsbD n = (s.buf.read j).getLsbD n

/-- From `s` to `t` only the registers that `regs` takes from its second state moved, and in the buffer only the current bit. -/
structure Moves (regs : State → State → State) (s t : State) : Prop where
  frame : t = regs s t
  bits : s.buf.wf = true → KeepsOtherBits s t.buf

/-- Only EM4100 decode registers and the current bit moved. -/
abbrev EmMoves := Moves State.withEmOf

/-- Only FDX-B decode registers and the current bit moved. -/
abbrev FdxMoves := Moves State.withFdxOf

theorem Moves.of_buf_eq {regs : State → State → State} {s t : State} (h : t = regs s t) (hbuf : t.buf = s.buf) : Moves regs s t :=
  ⟨h, fun _ _ _ _ => by rw [hbuf]⟩

/-- The bit write of EM_BIT and FDX_DATA (rule R125, rule R156). -/
theorem keepsOtherBits_write {s : State} (b : Bool) (hbit : s.bitCtr.toNat ≤ 7) (hwf : s.buf.wf = true) :
    KeepsOtherBits s (s.buf.write s.byteCtr.toNat (withBit (s.buf.read s.byteCtr.toNat) s.bitCtr.toNat b)) := by
  intro j n hother
  rw [readBit_after_write _ _ _ _ _ _ hwf (by omega), if_neg hother]

/-! ## EM4100 -/

theorem resyncEm_frame (s : State) : resyncEm s = s.withEmOf (resyncEm s) := rfl

theorem emBitSeek_frame (b : Bool) (s : State) : emBitSeek b s = s.withEmOf (emBitSeek b s) := by
  rw [emBitSeek_eq]
  rfl

theorem emFrameend_frame (s : State) : emFrameend s = s.withEmOf (emFrameend s) ∧ (emFrameend s).buf = s.buf := by
  rcases emFrameend_cases s with ⟨-, he⟩ | ⟨-, he⟩ <;> rw [he] <;> exact ⟨rfl, rfl⟩

theorem emRowend_frame (b : Bool) (s : State) : emRowend b s = s.withEmOf (emRowend b s) ∧ (emRowend b s).buf = s.buf := by
  unfold emRowend
  split
  · exact ⟨rfl, rfl⟩
  · exact emFrameend_frame { s with rowPar := false }

theorem emBitStore_moves {b : Bool} {s t : State} (ht : emBitStore b s = .ok t) : EmMoves s t := by
  rcases emBitStore_cases b s with ⟨-, he⟩ | ⟨m, rfl, -, hbit, ⟨-, he⟩ | ⟨-, he⟩⟩ <;> rw [he] at ht
  · cases ht
  · obtain rfl := Except.ok.inj ht
    exact ⟨rfl, keepsOtherBits_write b hbit⟩
  · obtain rfl := Except.ok.inj ht
    obtain ⟨hframe, hbuf⟩ := emRowend_frame b _
    exact ⟨hframe, fun hwf => by rw [hbuf]; exact keepsOtherBits_write b hbit hwf⟩

theorem emBit_moves {b : Bool} {s t : State} (ht : emBit b s = .ok t) : EmMoves s t := by
  rcases emBit_cases b s with ⟨-, he⟩ | ⟨-, he⟩ | ⟨-, he⟩ <;> rw [he] at ht
  · obtain rfl := Except.ok.inj ht
    exact .of_buf_eq (emBitSeek_frame b s) (by rw [emBitSeek_eq])
  · exact emBitStore_moves ht
  · cases ht

theorem emLong_moves {level : Bool} {s t : State} (ht : emLong level s = .ok t) : EmMoves s t :=
  have h := emBit_moves ht
  ⟨h.frame, h.bits⟩

theorem emShort_moves {level : Bool} {s t : State} (ht : emShort level s = .ok t) : EmMoves s t := by
  rcases emShort_cases level s with ⟨-, he⟩ | ⟨-, -, he⟩ | ⟨-, -, he⟩ <;> rw [he] at ht
  · exact Except.ok.inj ht ▸ .of_buf_eq rfl rfl
  · exact Except.ok.inj ht ▸ .of_buf_eq rfl rfl
  · have h := emBit_moves ht
    exact ⟨h.frame, h.bits⟩

theorem emStep_moves {cls : PulseClass} {level : Bool} {s t : State} (ht : emStep cls level s = .ok t) : EmMoves s t := by
  cases cls with
  | invalid => exact Except.ok.inj ht ▸ .of_buf_eq (resyncEm_frame s) rfl
  | long => exact emLong_moves ht
  | short => exact emShort_moves ht

/-! ## FDX-B -/

theorem resyncFdx_frame (s : State) : resyncFdx s = s.withFdxOf (resyncFdx s) := rfl

theorem fdxSeek_frame (hdr : Bool) (s : State) : fdxSeek hdr s = s.withFdxOf (fdxSeek hdr s) ∧ (fdxSeek hdr s).buf = s.buf := by
  cases hdr <;> exact ⟨rfl, rfl⟩

theorem fdxCrccheck_frame (s : State) : fdxCrccheck s = s.withFdxOf (fdxCrccheck s) ∧ (fdxCrccheck s).buf = s.buf := by
  rcases fdxCrccheck_cases s with ⟨-, he⟩ | ⟨-, he⟩ <;> rw [he] <;> exact ⟨rfl, rfl⟩

theorem fdxData_moves {b : Bool} {s t : State} (ht : fdxData b s = .ok t) : FdxMoves s t := by
  rcases fdxData_cases b s with ⟨-, he⟩ | ⟨n, rfl, -, hbit, ⟨-, -, he⟩ | ⟨-, -, he⟩ | ⟨-, he⟩⟩ <;> rw [he] at ht
  · cases ht
  · obtain rfl := Except.ok.inj ht
    obtain ⟨hframe, hbuf⟩ := fdxCrccheck_frame _
    exact ⟨hframe, fun hwf => by rw [hbuf]; exact keepsOtherBits_write b hbit hwf⟩
  · obtain rfl := Except.ok.inj ht
    exact ⟨rfl, keepsOtherBits_write b hbit⟩
  · obtain rfl := Except.ok.inj ht
    exact ⟨rfl, keepsOtherBits_write b hbit⟩

theorem fdxBit_moves {b : Bool} {s t : State} (ht : fdxBit b s = .ok t) : FdxMoves s t := by
  rcases fdxBit_cases b s with ⟨-, he⟩ | ⟨-, he⟩ | ⟨-, he⟩ | ⟨-, -, he⟩ <;> rw [he] at ht
  · obtain rfl := Except.ok.inj ht
    obtain ⟨hframe, hbuf⟩ := fdxSeek_frame (headerSeen b s) { s with tenZ := windowAfter b s }
    exact .of_buf_eq hframe hbuf
  · have h := fdxData_moves ht
    exact ⟨h.frame, h.bits⟩
  · exact Except.ok.inj ht ▸ .of_buf_eq rfl rfl
  · cases ht

theorem fdxLong_moves {s t : State} (ht : fdxLong s = .ok t) : FdxMoves s t :=
  have h := fdxBit_moves ht
  ⟨h.frame, h.bits⟩

theorem fdxShort_moves {s t : State} (ht : fdxShort s = .ok t) : FdxMoves s t := by
  rcases fdxShort_cases s with ⟨-, he⟩ | ⟨-, -, he⟩ | ⟨-, -, he⟩ <;> rw [he] at ht
  · exact Except.ok.inj ht ▸ .of_buf_eq rfl rfl
  · exact Except.ok.inj ht ▸ .of_buf_eq (resyncFdx_frame s) rfl
  · have h := fdxBit_moves ht
    exact ⟨h.frame, h.bits⟩

theorem fdxStep_moves {cls : PulseClass} {s t : State} (ht : fdxStep cls s = .ok t) : FdxMoves s t := by
  cases cls with
  | invalid => exact Except.ok.inj ht ▸ .of_buf_eq (resyncFdx_frame s) rfl
  | long => exact fdxLong_moves ht
  | short => exact fdxShort_moves ht

/-! ## The decoders' operations -/

/-- What a decoder's operation `i` leaves: its registers moved, and a bit stored only if it may (rule R125, rule R156). -/
def OperationMoves (regs : State → State → State) (i : Instr) (s t : State) : Prop :=
  ∃ u, t = respond .silent u ∧ Moves regs s u ∧ (i.mayStoreBit = false → u.buf = s.buf)

theorem operationMoves_of_kept {regs : State → State → State} {i : Instr} {s t u : State} (ht : exec i s = .next t)
    (he : exec i s = .next (respond .silent u)) (hu : u = regs s u ∧ u.buf = s.buf) : OperationMoves regs i s t :=
  ⟨u, Host.Outcome.next.inj (ht.symm.trans he), .of_buf_eq hu.1 hu.2, fun _ => hu.2⟩

theorem operationMoves_of_stored {regs : State → State → State} {i : Instr} {s t : State} {x : Except Fault State}
    (ht : exec i s = .next t) (he : exec i s = answer .silent x) (hx : ∀ u, x = .ok u → Moves regs s u)
    (hi : i.mayStoreBit = true) : OperationMoves regs i s t := by
  obtain ⟨u, hu, rfl⟩ := (answer_next _ _ _).1 (he.symm.trans ht)
  exact ⟨u, rfl, hx u hu, fun h => by simp [hi] at h⟩

theorem exec_emDecoder {i : Instr} {s t : State} (hi : i.family = .emDecoder) (ht : exec i s = .next t) :
    OperationMoves State.withEmOf i s t := by
  cases i with
  | emInvalid | resyncEm => exact operationMoves_of_kept ht rfl ⟨resyncEm_frame s, rfl⟩
  | emLong level => exact operationMoves_of_stored ht rfl (fun _ => emLong_moves) rfl
  | emShort level => exact operationMoves_of_stored ht rfl (fun _ => emShort_moves) rfl
  | emBitSeek b => exact operationMoves_of_kept ht rfl ⟨emBitSeek_frame b s, by rw [emBitSeek_eq]⟩
  | emBitStore b => exact operationMoves_of_stored ht rfl (fun _ => emBitStore_moves) rfl
  | emRowend b => exact operationMoves_of_kept ht rfl (emRowend_frame b s)
  | emFrameend => exact operationMoves_of_kept ht rfl (emFrameend_frame s)
  | _ => cases hi

theorem exec_fdxDecoder {i : Instr} {s t : State} (hi : i.family = .fdxDecoder) (ht : exec i s = .next t) :
    OperationMoves State.withFdxOf i s t := by
  cases i with
  | fdxInvalid | resyncFdx => exact operationMoves_of_kept ht rfl ⟨resyncFdx_frame s, rfl⟩
  | fdxLong => exact operationMoves_of_stored ht rfl (fun _ => fdxLong_moves) rfl
  | fdxShort => exact operationMoves_of_stored ht rfl (fun _ => fdxShort_moves) rfl
  | fdxBit b => exact operationMoves_of_stored ht rfl (fun _ => fdxBit_moves) rfl
  | fdxSeek hdr => exact operationMoves_of_kept ht rfl (fdxSeek_frame hdr s)
  | fdxData b => exact operationMoves_of_stored ht rfl (fun _ => fdxData_moves) rfl
  | fdxMarker b => exact operationMoves_of_kept ht rfl ⟨rfl, rfl⟩
  | fdxCrccheck => exact operationMoves_of_kept ht rfl (fdxCrccheck_frame s)
  | fdxFrameend => exact operationMoves_of_kept ht rfl ⟨rfl, rfl⟩
  | _ => cases hi

/-- An operation that may store a bit keeps the others; one that may not keeps the buffer. -/
theorem otherBits_kept {i : Instr} {s : State} {m : Memory} (hbits : KeepsOtherBits s m)
    (hbuf : i.mayStoreBit = false → m = s.buf) (j n : Nat)
    (h : ¬ (i.mayStoreBit = true ∧ j = s.byteCtr.toNat ∧ n = s.bitCtr.toNat)) :
    (m.read j).getLsbD n = (s.buf.read j).getLsbD n := by
  cases hi : i.mayStoreBit with
  | false => rw [hbuf hi]
  | true => exact hbits j n fun hcur => h ⟨hi, hcur⟩

/-- Settles O15: each decoder's operations move only its own registers and the current bit. -/
theorem decoderOperationsFrame : Obligations.DecoderOperationsFrame := by
  rintro i s t (hi | hi) hwf ht
  · obtain ⟨u, rfl, hu, hbuf⟩ := exec_emDecoder hi ht
    refine ⟨?_, fun _ => ?_, fun hf => absurd (hi.symm.trans hf) nofun, otherBits_kept (hu.bits hwf) hbuf⟩
    all_goals
      rw [hu.frame]
      repeat' constructor
  · obtain ⟨u, rfl, hu, hbuf⟩ := exec_fdxDecoder hi ht
    refine ⟨?_, fun he => absurd (hi.symm.trans he) nofun, fun _ => ?_, otherBits_kept (hu.bits hwf) hbuf⟩
    all_goals
      rw [hu.frame]
      repeat' constructor

/-! ## EDGE and DISPATCH -/

/-- What a pulse may do to the state: decode registers and the current bit move, the other protocol's registers do not. -/
structure PulseMoves (s t : State) : Prop where
  frame : t = s.withDecodeOf t
  bits : s.buf.wf = true → KeepsOtherBits s t.buf
  fdxKept : s.protocol = .em4100 → t.tenZ = s.tenZ ∧ t.pulse2 = s.pulse2
  emKept : s.protocol = .fdxb →
    t.ones = s.ones ∧ t.rowPar = s.rowPar ∧ t.failMap = s.failMap ∧ t.longSeen = s.longSeen ∧ t.emHalf = s.emHalf

theorem PulseMoves.refl (s : State) : PulseMoves s s :=
  ⟨rfl, fun _ _ _ _ => rfl, fun _ => ⟨rfl, rfl⟩, fun _ => ⟨rfl, rfl, rfl, rfl, rfl⟩⟩

/-- Counting the edge first writes only `lastEdge` and `pulseCount`. -/
theorem PulseMoves.of_countEdge {now : U32} {s t : State} (h : PulseMoves (countEdge now s) t) : PulseMoves s t :=
  ⟨h.frame, h.bits, h.fdxKept, h.emKept⟩

theorem EmMoves.pulseMoves {s t : State} (h : EmMoves s t) (hp : s.protocol = .em4100) : PulseMoves s t where
  frame := by rw [h.frame]; rfl
  bits := h.bits
  fdxKept _ := by rw [h.frame]; exact ⟨rfl, rfl⟩
  emKept hf := absurd (hp.symm.trans hf) nofun

theorem FdxMoves.pulseMoves {s t : State} (h : FdxMoves s t) (hp : s.protocol = .fdxb) : PulseMoves s t where
  frame := by rw [h.frame]; rfl
  bits := h.bits
  fdxKept he := absurd (hp.symm.trans he) nofun
  emKept _ := by rw [h.frame]; exact ⟨rfl, rfl, rfl, rfl, rfl⟩

/-- DISPATCH moves the registers of the selected decoder (rule R105). -/
theorem dispatch_moves {cls : PulseClass} {level : Bool} {s t : State} (ht : dispatch cls level s = .ok t) :
    (s.protocol = .em4100 ∧ EmMoves s t) ∨ (s.protocol = .fdxb ∧ FdxMoves s t) := by
  cases hp : s.protocol with
  | em4100 => exact .inl ⟨rfl, emStep_moves (dispatch_em hp cls level ▸ ht)⟩
  | fdxb => exact .inr ⟨rfl, fdxStep_moves (dispatch_fdx hp cls level ▸ ht)⟩

theorem dispatch_pulseMoves {cls : PulseClass} {level : Bool} {s t : State} (ht : dispatch cls level s = .ok t) :
    PulseMoves s t := by
  rcases dispatch_moves ht with ⟨hp, h⟩ | ⟨hp, h⟩
  · exact h.pulseMoves hp
  · exact h.pulseMoves hp

theorem edge_pulseMoves {P : Config.Params} {line : Line} {level : Bool} {now : U32} {s t : State}
    (ht : edge P line level now s = .ok t) : PulseMoves s t := by
  rcases edge_cases P line level now s with ⟨-, he⟩ | ⟨-, -, he⟩ | ⟨-, -, he⟩ <;> rw [he] at ht
  · exact Except.ok.inj ht ▸ .refl s
  · exact Except.ok.inj ht ▸ .of_countEdge (.refl _)
  · exact .of_countEdge (dispatch_pulseMoves ht)

/-- Settles O14: an edge moves decode registers, and those of the selected decoder only. -/
theorem edgeKeepsTheSessionRegisters : Obligations.EdgeKeepsTheSessionRegisters := by
  intro i s t hi hwf ht
  obtain ⟨u, rfl, hu⟩ : ∃ u, t = respond .silent u ∧ PulseMoves s u := by
    rcases hi with ⟨line, level, now, rfl⟩ | ⟨cls, level, rfl⟩ <;> obtain ⟨u, hu, rfl⟩ := (answer_next _ _ _).1 ht
    · exact ⟨u, rfl, edge_pulseMoves hu⟩
    · exact ⟨u, rfl, dispatch_pulseMoves hu⟩
  refine ⟨?_, hu.bits hwf, hu.fdxKept, hu.emKept⟩
  rw [hu.frame]
  repeat' constructor

/-- DISPATCH completes in a state of rule R46, even after success. -/
theorem dispatch_ok {s : State} (h : ControlInv s) (cls : PulseClass) (level : Bool) : ∃ t, dispatch cls level s = .ok t := by
  cases hp : s.protocol with
  | em4100 => exact dispatch_em hp cls level ▸ emStep_ok ((controlInv_iff_em hp).1 h).2 cls level
  | fdxb => exact dispatch_fdx hp cls level ▸ fdxStep_ok ((controlInv_iff_fdx hp).1 h).2 cls

/-- Settles O13: both complete, and what they move is in the registers of rule R47. -/
theorem edgeCompletesInReachableStates : Obligations.EdgeCompletesInReachableStates := by
  intro s h
  constructor
  · intro line level now
    obtain ⟨t, ht⟩ := edge_next h params line level now
    exact ⟨respond .silent (s.withDecodeOf t), by rw [exec_edge, ht, answer], rfl⟩
  · intro cls level
    obtain ⟨t, ht⟩ := dispatch_ok h cls level
    refine ⟨respond .silent t, by rw [exec_dispatch, ht, answer], ?_⟩
    rcases dispatch_moves ht with ⟨-, hm⟩ | ⟨-, hm⟩ <;> rw [hm.frame] <;> rfl

end Sys2Proof.Machine
end

section
/-! The frame of the session's and the host's operations (rule R47, rule R73), and what a TICK reads (rule R195). -/

namespace Sys2Proof.Machine

/-! ## What TICK, SHUT and the views write -/

/-- `s` with the registers of `t` that a TICK may write (rule R47). -/
def State.withSessionOf (s t : State) : State :=
  { s with
    armed := t.armed, sess := t.sess, msCount := t.msCount, outcome := t.outcome, done := t.done, antC := t.antC
    antD := t.antD }

theorem finish_frame (o : ReadOutcome) (s : State) : finish o s = s.withSessionOf (finish o s) := rfl

theorem poll_frame (s : State) : poll s = s.withSessionOf (poll s) := by
  rcases poll_cases s with ⟨-, he⟩ | ⟨-, -, he⟩ | ⟨-, -, he⟩ <;> rw [he] <;> rfl

theorem gate_frame (P : Config.Params) (s : State) : gate P s = s.withSessionOf (gate P s) := by
  rcases gate_cases P s with ⟨-, he⟩ | ⟨-, -, he⟩ | ⟨-, -, he⟩ <;> rw [he]
  · rfl
  · rfl
  · exact poll_frame { s with sess := .wait }

theorem tickCheck_frame (P : Config.Params) (s : State) : tickCheck P s = s.withSessionOf (tickCheck P s) :=
  gate_frame P (countMs s)

theorem tickWait_frame (s : State) : tickWait s = s.withSessionOf (tickWait s) := poll_frame (countMs s)

theorem tick_frame (P : Config.Params) (s : State) : tick P s = s.withSessionOf (tick P s) := by
  unfold tick
  cases s.sess with
  | idle => rfl
  | check => exact tickCheck_frame P s
  | wait => exact tickWait_frame s

/-- Settles O38: each operation is a response on a state that differs in its own registers only. -/
theorem sessionOperationsFrame : Obligations.SessionOperationsFrame := by
  intro i s t ht
  have session {u : State} (he : exec i s = .next (respond .silent u)) (hu : u = s.withSessionOf u) :
      t = { s.withSessionOf t with resp := t.resp } := by
    obtain rfl := Host.Outcome.next.inj (he.symm.trans ht)
    exact congrArg (respond .silent) hu
  refine ⟨?_, ?_, ?_⟩
  · rintro (rfl | rfl | rfl | rfl | ⟨o, rfl⟩)
    · exact session rfl (tick_frame params s)
    · exact session rfl rfl
    · exact session rfl (tickCheck_frame params s)
    · exact session rfl (tickWait_frame s)
    · exact session rfl (finish_frame o s)
  · rintro (rfl | hi)
    · obtain rfl := Host.Outcome.next.inj ((exec_shut s).symm.trans ht)
      rcases shut_cases s with ⟨-, he⟩ | ⟨-, he⟩ <;> rw [he]
    · cases i with
      | antEnable c =>
        obtain rfl := Host.Outcome.next.inj ((exec_antEnable c s).symm.trans ht)
        rw [antEnable_eq]
        rfl
      | antDisableAll | shutReject => exact Host.Outcome.next.inj ht ▸ rfl
      | _ => cases hi
  · rintro (⟨k, rfl⟩ | hi)
    · exact Host.Outcome.next.inj ht ▸ rfl
    · cases i with
      | emPayload | emUser | emId | emHex | fdxAnimal | fdxCountry | fdxExt | fdxExt24 | fdxCrcfield | fdxId64 | fdxIdlow
      | fdxStr => exact Host.Outcome.next.inj ht ▸ rfl
      | _ => cases hi

/-! ## What TICK reads -/

/-- The two states agree on the session's registers, and on `flag` and `pulseCount`. -/
structure SessionAgrees (s u : State) : Prop where
  flag : s.flag = u.flag
  pulseCount : s.pulseCount = u.pulseCount
  sess : s.sess = u.sess
  msCount : s.msCount = u.msCount
  cd : s.cd = u.cd
  rt : s.rt = u.rt
  armed : s.armed = u.armed
  outcome : s.outcome = u.outcome
  done : s.done = u.done
  antC : s.antC = u.antC
  antD : s.antD = u.antD

theorem SessionAgrees.finish {s u : State} (h : SessionAgrees s u) (o : ReadOutcome) :
    SessionAgrees (finish o s) (finish o u) :=
  { h with sess := rfl, armed := rfl, outcome := rfl, done := rfl, antC := rfl, antD := rfl }

theorem SessionAgrees.countMs {s u : State} (h : SessionAgrees s u) : SessionAgrees (countMs s) (countMs u) :=
  { h with msCount := congrArg (· + 1) h.msCount }

theorem SessionAgrees.withSess {s u : State} (h : SessionAgrees s u) (phase : Sess) :
    SessionAgrees { s with sess := phase } { u with sess := phase } :=
  { h with sess := rfl }

theorem SessionAgrees.poll {s u : State} (h : SessionAgrees s u) : SessionAgrees (poll s) (poll u) := by
  unfold Machine.poll
  rw [← h.flag, ← h.rt, ← h.msCount]
  split
  · exact h.finish .tagDecoded
  · split
    · exact h.finish .noTag
    · exact h

theorem SessionAgrees.gate {s u : State} (h : SessionAgrees s u) (P : Config.Params) : SessionAgrees (gate P s) (gate P u) := by
  rcases gate_cases P s with ⟨hlt, he⟩ | ⟨hcd, hfew, he⟩ | ⟨hcd, hmany, he⟩ <;> rw [he]
  · rw [gate_of_lt (by rwa [← h.msCount, ← h.cd])]
    exact h
  · rw [gate_of_few_edges (by rwa [← h.cd, ← h.msCount]) (by rwa [← h.pulseCount, ← h.cd])]
    exact h.finish .noTag
  · rw [gate_of_enough_edges (by rwa [← h.cd, ← h.msCount]) (by rwa [← h.cd, ← h.pulseCount])]
    exact (h.withSess .wait).poll

theorem SessionAgrees.tick {s u : State} (h : SessionAgrees s u) (P : Config.Params) : SessionAgrees (tick P s) (tick P u) := by
  unfold Machine.tick
  rw [← h.sess]
  cases s.sess with
  | idle => exact h
  | check => exact h.countMs.gate P
  | wait => exact h.countMs.poll

/-- Settles O39: TICK and its two phases keep the agreement. -/
theorem sessionReadsOnlyFlagAndPulseCount : Obligations.SessionReadsOnlyFlagAndPulseCount := by
  intro i s u s' u' hi hflag hpulse hsess hms hcd hrt harmed hout hdone hC hD hs' hu'
  have h : SessionAgrees s u := ⟨hflag, hpulse, hsess, hms, hcd, hrt, harmed, hout, hdone, hC, hD⟩
  have h' : SessionAgrees s' u' := by
    rcases hi with rfl | rfl | rfl <;> obtain rfl := Host.Outcome.next.inj hs' <;> obtain rfl := Host.Outcome.next.inj hu'
    · exact { h.tick params with }
    · exact { h.countMs.gate params with }
    · exact { h.countMs.poll with }
  exact ⟨h'.sess, h'.msCount, h'.armed, h'.outcome, h'.done, h'.antC, h'.antD⟩

end Sys2Proof.Machine
end

section
/-! The step (rule R70, rule R90): it runs the next event, stops in no reachable state, and the events of a clock cycle run in
their order (rule R81). -/

namespace Sys2Proof.Machine

/-! ## The next event -/

theorem step_of_decode {s : State} {w : EventWord} {rest : List EventWord} {i : Instr} (hw : s.events = w :: rest)
    (hdec : decode w = .ok i) : step s = exec i { s with events := rest } := by
  simp [step, takeEvent, hw, hdec]

theorem step_of_decode_error {s : State} {w : EventWord} {rest : List EventWord} {e : DecodeError} (hw : s.events = w :: rest)
    (hdec : decode w = .error e) : step s = .next { s with events := rest, resp := .reject } := by
  simp [step, takeEvent, hw, hdec, rejectWord, reject, respond]

theorem step_of_nil {s : State} (h : s.events = []) : step s = exec .nop s := by
  simp [step, takeEvent, h]

/-- A word put in as a number of 72 bits is the word. -/
theorem eventWordOfBits_toNat (w : EventWord) : eventWordOfBits 72 w.toNat = w := by
  rw [eventWordOfBits, Nat.mod_eq_of_lt w.isLt, BitVec.ofNat_toNat, BitVec.setWidth_eq]

theorem isEvent_of_encode {i : Instr} {w : EventWord} (h : encode i = some w) : i.isEvent = true := by
  by_contra hi
  rw [encode_of_not_isEvent (Bool.not_eq_true _ ▸ hi)] at h
  cases h

theorem decode_of_encode {i : Instr} {w : EventWord} (h : encode i = some w) : decode w = .ok i := by
  obtain ⟨w', hw', hdec⟩ := exists_encode_of_isEvent (isEvent_of_encode h)
  rwa [Option.some.inj (h.symm.trans hw')]

/-- An encoded event placed at the head of the trace is the one the next step runs. -/
theorem step_withFetchWord {i : Instr} {w : EventWord} (h : encode i = some w) (s : State) :
    step (s.withFetchWord 72 w.toNat) = exec i s :=
  step_of_decode (by rw [State.withFetchWord, pushEvent, eventWordOfBits_toNat]) (decode_of_encode h)

/-- Settles O4: the step by what is pending and whether it decodes. -/
theorem stepRunsTheNextEvent : Obligations.StepRunsTheNextEvent :=
  ⟨fun _ _ _ _ => step_of_decode, fun _ _ _ _ => step_of_decode_error, fun _ => step_of_nil,
    fun _ _ s h => step_withFetchWord h s⟩

/-! ## Totality -/

/-- From a reachable state every event answers a next state (rule R89). -/
theorem exec_event_next {i : Instr} {s : State} (hi : i.isEvent = true) (h : ControlInv s) : ∃ t, exec i s = .next t := by
  cases i with
  | edge line level now =>
    obtain ⟨t, ht⟩ := edge_next h params line level now
    exact ⟨_, by rw [exec_edge, ht, answer]⟩
  | nop | tick | read | shut | rdbuf | reserved6 | reset => exact ⟨_, rfl⟩
  | _ => cases hi

/-- Settles O47: the pending word is no event, or an event that completes. -/
theorem noStepStops : Obligations.NoStepStops := by
  intro s h
  rcases step_cases s with ⟨-, he⟩ | ⟨w, rest, i, -, hdec, he⟩ | ⟨w, rest, e, -, -, he⟩ <;> rw [stepsOn, he]
  · exact exec_event_next rfl h
  · exact exec_event_next (isEvent_of_decode hdec) (h.withTrace rest s.resp)
  · exact ⟨_, rfl⟩

/-! ## A clock cycle -/

theorem cycle_of_events_nil {c : CycleInputs} (h : c.events = []) (s : State) : cycle c s = exec .nop s := by
  rw [cycle, h]

theorem cycle_of_events_ne_nil {c : CycleInputs} (h : c.events ≠ []) (s : State) : cycle c s = execAll c.events s := by
  unfold cycle
  split
  · next hnil => exact absurd hnil h
  · rfl

/-- Settles O58: each input gives its part of the cycle's list, and the parts stand in the order of rule R81. -/
theorem cycleRunsInOrder : Obligations.CycleRunsInOrder := by
  refine ⟨?_, fun i is s t h => execAll_cons_of_next h is, fun _ => rfl⟩
  intro c s resets edges ticks commands hreset hnoreset hedge hnoedge htick hnotick hread hshut hrdbuf hnocommand
  have hresets : (if c.reset then [.reset] else []) = resets := by
    cases h : c.reset with
    | false => exact (hnoreset h).symm
    | true => exact (hreset h).symm
  have hticks : (if c.tick then [.tick] else []) = ticks := by
    cases h : c.tick with
    | false => exact (hnotick h).symm
    | true => exact (htick h).symm
  have hevents : c.events = resets ++ edges ++ ticks ++ commands := by
    rw [CycleInputs.events, hresets, hticks]
    congr 1
    · congr 2
      cases h : c.edge with
      | none => exact (hnoedge h).symm
      | some e => exact (hedge _ _ _ h).symm
    · cases h : c.command with
      | none => exact (hnocommand h).symm
      | some cmd =>
        cases cmd with
        | read p n cd rt => exact (hread p n cd rt h).symm
        | shut => exact (hshut h).symm
        | rdbuf k => exact (hrdbuf k h).symm
  rw [← hevents]
  exact ⟨fun h => cycle_of_events_nil h s, fun h => cycle_of_events_ne_nil h s⟩

end Sys2Proof.Machine
end

section
/-! The pulse classes by their thresholds (rule R102, rule R103), and the operations outside the conditions under which an event
runs them (notes 4, 7, 8 and 9). -/

namespace Sys2Proof.Machine

/-! ## Pulse classes -/

/-- SHORT strictly inside the first window, else LONG strictly inside the second, else INVALID: the shape of CLASS_EM and
CLASS_FDX (rule R102, rule R103). -/
def classWithin (shortLo shortHi longLo longHi dt : U32) : PulseClass :=
  if shortLo < dt ∧ dt < shortHi then .short else if longLo < dt ∧ dt < longHi then .long else .invalid

theorem classEm_eq (P : Config.Params) (dt : U32) :
    classEm P dt = classWithin P.emShortLo P.emShortHi P.emLongLo P.emLongHi dt := rfl

theorem classFdx_eq (P : Config.Params) (dt : U32) :
    classFdx P dt = classWithin P.fdxShortLo P.fdxShortHi P.fdxLongLo P.fdxLongHi dt := rfl

theorem classWithin_eq_short_iff (shortLo shortHi longLo longHi dt : U32) :
    classWithin shortLo shortHi longLo longHi dt = .short ↔ shortLo.toNat < dt.toNat ∧ dt.toNat < shortHi.toNat := by
  unfold classWithin
  simp only [BitVec.lt_def]
  split_ifs <;> simp_all

theorem classWithin_eq_long_iff (shortLo shortHi longLo longHi dt : U32) :
    classWithin shortLo shortHi longLo longHi dt = .long ↔
      ¬ (shortLo.toNat < dt.toNat ∧ dt.toNat < shortHi.toNat) ∧ longLo.toNat < dt.toNat ∧ dt.toNat < longHi.toNat := by
  unfold classWithin
  simp only [BitVec.lt_def]
  split_ifs <;> simp_all

/-- Outside both windows the class is INVALID. -/
theorem classWithin_eq_invalid {shortLo shortHi longLo longHi dt : U32} (hshort : dt ≤ shortLo ∨ shortHi ≤ dt)
    (hlong : dt ≤ longLo ∨ longHi ≤ dt) : classWithin shortLo shortHi longLo longHi dt = .invalid := by
  rw [classWithin, if_neg (by bv_omega), if_neg (by bv_omega)]

/-- Settles O9: the two classifiers have one shape, and the defaults are numbers. -/
theorem pulseClassesByThreshold : Obligations.PulseClassesByThreshold := by
  refine ⟨fun P dt => ?_, fun _ _ => ⟨rfl, rfl⟩, by decide, fun dt => ?_⟩
  · rw [classEm_eq, classFdx_eq]
    exact ⟨classWithin_eq_short_iff .., classWithin_eq_long_iff .., classWithin_eq_short_iff .., classWithin_eq_long_iff ..⟩
  · refine ⟨?_, ?_, ?_, ?_, ?_, ?_⟩
    · rintro (rfl | rfl | rfl) <;> decide
    · rintro (rfl | rfl | rfl) <;> decide
    · rintro (rfl | rfl | hlong)
      · decide
      · decide
      · have hdt : 600#32 ≤ dt := hlong
        exact classWithin_eq_invalid (.inr (BitVec.le_trans (by decide) hdt)) (.inr hdt)
    · rintro (rfl | rfl | rfl) <;> decide
    · rintro (rfl | rfl | rfl) <;> decide
    · rintro (rfl | ⟨hlo, hhi⟩ | rfl)
      · decide
      · exact classWithin_eq_invalid (.inr (show 170#32 ≤ dt from hlo)) (.inl (show dt ≤ 200#32 from hhi))
      · decide

/-! ## States that no run reaches -/

theorem emBit_of_gt {s : State} (h : 9 < s.ones.toNat) (b : Bool) : emBit b s = .error .unusedCounterValue := by
  rcases emBit_cases b s with ⟨hones, -⟩ | ⟨hones, -⟩ | ⟨-, he⟩
  · bv_omega
  · bv_omega
  · exact he

theorem emBitStore_of_outside {s : State} (h : ¬ (s.byteCtr.toNat ≤ 12 ∧ s.bitCtr.toNat ≤ 7)) (b : Bool) :
    emBitStore b s = .error (.noBufferBit s.byteCtr.toNat s.bitCtr.toNat) := by
  rcases emBitStore_cases b s with ⟨-, he⟩ | ⟨m, -, hbyte, hbit, -⟩
  · exact he
  · exact absurd ⟨hbyte, hbit⟩ h

theorem fdxData_of_outside {s : State} (h : ¬ (s.byteCtr.toNat ≤ 12 ∧ s.bitCtr.toNat ≤ 7)) (b : Bool) :
    fdxData b s = .error (.noBufferBit s.byteCtr.toNat s.bitCtr.toNat) := by
  rcases fdxData_cases b s with ⟨-, he⟩ | ⟨n, -, hbyte, hbit, -⟩
  · exact he
  · exact absurd ⟨hbyte, hbit⟩ h

theorem fdxBit_of_unused {s : State} (h : s.bitCtr.toNat = 9 ∨ 10 < s.bitCtr.toNat) (b : Bool) :
    fdxBit b s = .error .unusedCounterValue := by
  rcases fdxBit_cases b s with ⟨hbit, -⟩ | ⟨hbit, -⟩ | ⟨hbit, -⟩ | ⟨-, -, he⟩
  · bv_omega
  · bv_omega
  · bv_omega
  · exact he

/-- Settles O30: each fault is the named case of its operation. -/
theorem unreachableCountersFault : Obligations.UnreachableCountersFault := by
  refine ⟨fun level s hones => ?_, fun level s hlong hhalf hones => ?_, fun b s hbit => ?_, fun b s hout => ⟨?_, ?_⟩⟩
  · rw [exec_emLong, emBit_of_gt (s := { s with longSeen := true, emHalf := false }) hones, answer]
  · rw [exec_emShort, emShort_of_half hlong hhalf, emBit_of_gt (s := { s with emHalf := false }) hones, answer]
  · rw [exec_fdxBit, fdxBit_of_unused hbit, answer]
  · rw [exec_emBitStore, emBitStore_of_outside hout, answer]
  · rw [exec_fdxData, fdxData_of_outside hout, answer]

/-! ## Operations outside their conditions -/

/-- A counter's successor as a number (note 9). -/
theorem add_one_eq_ofNat_mod (n : BitVec 4) : n + 1 = BitVec.ofNat 4 ((n.toNat + 1) % 16) := by bv_omega

/-- Settles O59: each operation is one record update, whatever the state and the operand. -/
theorem operationsOutsideTheirConditions : Obligations.OperationsOutsideTheirConditions := by
  refine fun s => ⟨fun _ => ⟨runsTo_emBitSeek true s, runsTo_emBitSeek false s⟩, fun b => ⟨.silent, ?_⟩, fun b hrow => ?_,
    fun c h1 _ => ?_, fun p c cd rt h1 _ => ⟨.silent, ?_⟩⟩
  · rw [← add_one_eq_ofNat_mod]
    rfl
  · exact ⟨respond .silent (emRowend b s), rfl, by rw [emRowend_of_lt (by omega)]; rfl⟩
  · simpa [h1] using runsTo_antEnable c s
  · simp only [exec_readAccept, readAccept_eq, armclear_eq, decide_eq_true h1, decide_eq_false h1]
    rfl

end Sys2Proof.Machine
end

section
/-! Every step keeps `Inv`: besides the control invariant, what `failMap`, `rowPar` and `flag` say of the buffer (rule R30, rule R31,
rule R127, rule R158). Each decoder has its own part of it, and only a pulse of the protocol in use moves anything that part
speaks of. -/

namespace Sys2Proof.Machine

/-! ## The two halves of the frame invariant -/

/-- EM4100 writes only bits 4 to 0 of rows 0 to 10, bit by bit (rule R36, rule R61). -/
def EmLayout (m : Memory) : Prop := ∀ i n, 5 ≤ n ∨ 11 ≤ i → (m.read i).getLsbD n = false

/-- The clauses of `FrameInv` of an EM4100 session. -/
structure EmFrameInv (s : State) : Prop where
  layout : EmLayout s.buf
  rows : s.ones = 9#4 → ∀ r, r < 10 →
    s.failMap.getLsbD r = (decide (r < s.byteCtr.toNat) && (rowParity r s != memReadBit r 0 s))
  rowPar : s.ones = 9#4 → s.flag ≠ .integrityPassed → s.rowPar = partialRowParity s
  columns : s.flag = .integrityPassed → columnsBad s = false

/-- The clause of `FrameInv` of an FDX-B session (rule R158). -/
def FdxFrameInv (s : State) : Prop := s.flag = .passedPending ∨ s.flag = .integrityPassed → fdxFrameGood s = true

/-- A byte below 32 has no bit above bit 4. -/
theorem toNat_lt_32_iff (b : Byte) : b.toNat < 32 ↔ ∀ n, 5 ≤ n → b.getLsbD n = false := by
  constructor
  · intro h n hn
    exact Nat.testBit_lt_two_pow (h.trans_le (Nat.pow_le_pow_right (n := 2) (by decide) hn))
  · exact Nat.lt_pow_two_of_testBit (n := 5) _

theorem emLayout_iff (m : Memory) : EmLayout m ↔ ∀ i, (m.read i).toNat < 32 ∧ (11 ≤ i → m.read i = 0#8) := by
  constructor
  · intro h i
    refine ⟨(toNat_lt_32_iff _).2 fun n hn => h i n (.inl hn), fun hi => BitVec.eq_of_getLsbD_eq fun n _ => ?_⟩
    rw [h i n (.inr hi), BitVec.getLsbD_zero]
  · rintro h i n (hn | hi)
    · exact (toNat_lt_32_iff _).1 (h i).1 n hn
    · rw [(h i).2 hi, BitVec.getLsbD_zero]

theorem frameInv_iff_em {s : State} (hp : s.protocol = .em4100) : FrameInv s ↔ EmFrameInv s := by
  have hne : s.protocol ≠ .fdxb := by simp [hp]
  constructor
  · exact fun h => ⟨(emLayout_iff _).2 (h.emLayout hp), h.emRows hp, h.emRowPar hp, h.emColumnsGood hp⟩
  · exact fun h => ⟨fun _ => (emLayout_iff _).1 h.layout, fun _ => h.rows, fun _ => h.rowPar, fun _ => h.columns,
      fun hf => absurd hf hne⟩

theorem frameInv_iff_fdx {s : State} (hp : s.protocol = .fdxb) : FrameInv s ↔ FdxFrameInv s := by
  have hne : s.protocol ≠ .em4100 := by simp [hp]
  constructor
  · exact fun h => h.fdxCrcGood hp
  · exact fun h => ⟨fun he => absurd he hne, fun he => absurd he hne, fun he => absurd he hne, fun he => absurd he hne, fun _ => h⟩

/-! ## The stored bit -/

/-- `s` with the bit `b` stored at `(byteCtr, bitCtr)` (rule R66). -/
def storeBit (b : Bool) (s : State) : State :=
  { s with buf := s.buf.write s.byteCtr.toNat (withBit (s.buf.read s.byteCtr.toNat) s.bitCtr.toNat b) }

theorem memReadBit_storeBit {b : Bool} {s : State} (hwf : s.buf.wf = true) (hbit : s.bitCtr.toNat ≤ 7) (i k : Nat) :
    memReadBit i k (storeBit b s) = if i = s.byteCtr.toNat ∧ k = s.bitCtr.toNat then b else memReadBit i k s :=
  readBit_after_write _ _ _ _ _ _ hwf (by omega)

/-! ## EM4100 -/

theorem EmLayout.storeBit {s : State} (h : EmLayout s.buf) (hd : EmDecoderInv s) (b : Bool) : EmLayout (storeBit b s).buf := by
  have hbyte : s.byteCtr.toNat ≤ 10 := hd.byteCtrLe
  have hbit : s.bitCtr.toNat ≤ 4 := hd.bitCtrLe
  intro i n hout
  have hkept := memReadBit_storeBit (b := b) hd.bufWf (by omega) i n
  rw [if_neg (by omega)] at hkept
  exact hkept.trans (h i n hout)

/-- The parity of a row is that of its bits 4 to 1. -/
theorem rowParity_congr {s t : State} {r : Nat} (h : ∀ c, 1 ≤ c → memReadBit r c t = memReadBit r c s) :
    rowParity r t = rowParity r s := by
  unfold rowParity
  rw [List.map_congr_left fun j hj => h (4 - j) (by have := List.mem_range.1 hj; omega)]

/-- Row `r` is complete and its parity bit is wrong (rule R126). -/
def rowFailed (r : Nat) (s : State) : Bool := rowParity r s != memReadBit r 0 s

/-- A bit stored in another row does not change whether row `r` failed. -/
theorem rowFailed_storeBit {s : State} (hd : EmDecoderInv s) {r : Nat} (hr : r ≠ s.byteCtr.toNat) (b : Bool) :
    rowFailed r (storeBit b s) = rowFailed r s := by
  have hbit : s.bitCtr.toNat ≤ 4 := hd.bitCtrLe
  have hkept (c : Nat) : memReadBit r c (storeBit b s) = memReadBit r c s := by
    rw [memReadBit_storeBit hd.bufWf (by omega), if_neg fun h => hr h.1]
  rw [rowFailed, rowParity_congr fun c _ => hkept c, hkept, rowFailed]

/-- Before the first bit of a row there is nothing to sum. -/
theorem partialRowParity_of_start {s : State} (h : s.bitCtr = 4#4) : partialRowParity s = false := by
  simp [partialRowParity, h, xorAll, List.range_succ]

/-- Once the data bits are in, the partial parity is the row's (rule R126). -/
theorem partialRowParity_of_end {s : State} (h : s.bitCtr = 0#4) : partialRowParity s = rowParity s.byteCtr.toNat s := by
  simp [partialRowParity, rowParity, h, List.range_succ]

/-- One more data bit in the partial parity, position by position. -/
theorem partialParity_term {s : State} {b : Bool} (hwf : s.buf.wf = true) (hpos : 1 ≤ s.bitCtr.toNat)
    (hle : s.bitCtr.toNat ≤ 4) {j : Nat} (hj : j < 4) :
    (decide (s.bitCtr.toNat - 1 < 4 - j) && memReadBit s.byteCtr.toNat (4 - j) (storeBit b s)) =
      ((decide (s.bitCtr.toNat < 4 - j) && memReadBit s.byteCtr.toNat (4 - j) s) ^^
        (b && decide (j = 4 - s.bitCtr.toNat))) := by
  rw [memReadBit_storeBit hwf (by omega)]
  rcases Nat.lt_trichotomy (4 - j) s.bitCtr.toNat with hlt | heq | hgt
  · have hbefore : ¬ s.bitCtr.toNat - 1 < 4 - j := by omega
    have hother : j ≠ 4 - s.bitCtr.toNat := by omega
    simp [hbefore, hother, Nat.not_lt_of_gt hlt]
  · have hcur : j = 4 - s.bitCtr.toNat := by omega
    have hnow : 0 < s.bitCtr.toNat := hpos
    simp [← hcur, heq, hnow]
  · have hafter : s.bitCtr.toNat - 1 < 4 - j := by omega
    have hother : j ≠ 4 - s.bitCtr.toNat := by omega
    simp [hafter, hother, hgt, Nat.ne_of_gt hgt]

/-- A stored data bit goes into the partial parity (rule R125). -/
theorem partialRowParity_store {s t : State} {b : Bool} (hwf : s.buf.wf = true) (hpos : 1 ≤ s.bitCtr.toNat)
    (hle : s.bitCtr.toNat ≤ 4) (ht : t = { storeBit b s with rowPar := s.rowPar ^^ b, bitCtr := s.bitCtr - 1 }) :
    partialRowParity t = (partialRowParity s ^^ b) := by
  have hbit : (s.bitCtr - 1).toNat = s.bitCtr.toNat - 1 := by bv_omega
  have hsum : partialRowParity t = xorAll ((List.range 4).map fun j =>
      decide (s.bitCtr.toNat - 1 < 4 - j) && memReadBit s.byteCtr.toNat (4 - j) (storeBit b s)) := by
    rw [ht, ← hbit]
    rfl
  rw [hsum, List.map_congr_left fun j hj => partialParity_term hwf hpos hle (List.mem_range.1 hj)]
  cases b with
  | false => simp [partialRowParity]
  | true => simp [xorAll_map_range_flip, partialRowParity, show 4 - s.bitCtr.toNat < 4 by omega]

/-- At the start of a frame there is nothing to say of the rows (rule R128, rule R129). -/
theorem emFrameInv_of_start {s : State} (hlayout : EmLayout s.buf) (hbyte : s.byteCtr = 0#4) (hbit : s.bitCtr = 4#4)
    (hpar : s.rowPar = false) (hfail : s.failMap = 0#11) (hflag : s.flag = .inProgress) : EmFrameInv s where
  layout := hlayout
  rows _ r _ := by simp [hfail, hbyte]
  rowPar _ _ := by rw [hpar, partialRowParity_of_start hbit]
  columns hf := absurd (hflag.symm.trans hf) nofun

theorem resyncEm_emFrameInv {s : State} (h : EmLayout s.buf) : EmFrameInv (resyncEm s) :=
  emFrameInv_of_start h rfl rfl rfl rfl rfl

theorem emBitSeek_keeps_emFrameInv {b : Bool} {s : State} (hd : EmDecoderInv s) (h : EmFrameInv s) (hones : s.ones < 9#4) :
    EmFrameInv (emBitSeek b s) := by
  obtain ⟨hbyte, hbit, hpar, hfail, hflag⟩ := hd.seek hones
  rw [emBitSeek_eq]
  exact emFrameInv_of_start h.layout hbyte hbit hpar hfail hflag

/-- A bit above position 0 (rule R125). -/
theorem emFrameInv_inRow {b : Bool} {s : State} (hd : EmDecoderInv s) (h : EmFrameInv s) (hflag : s.flag ≠ .integrityPassed)
    (hpos : 1 ≤ s.bitCtr.toNat) :
    EmFrameInv { storeBit b s with rowPar := s.rowPar ^^ b, bitCtr := s.bitCtr - 1 } where
  layout := h.layout.storeBit hd b
  rows hones r hr := by
    refine (h.rows hones r hr).trans ?_
    by_cases hlt : r < s.byteCtr.toNat
    · exact congrArg _ (rowFailed_storeBit hd (Nat.ne_of_lt hlt) b).symm
    · simp [storeBit, hlt]
  rowPar hones _ :=
    (congrArg (· ^^ b) (h.rowPar hones hflag)).trans (partialRowParity_store hd.bufWf hpos hd.bitCtrLe rfl).symm
  columns hf := absurd hf hflag

/-- The parity bit of a data row: `failMap` then tells of that row too (rule R126). -/
theorem emFrameInv_rowEnd {b : Bool} {s : State} (hd : EmDecoderInv s) (h : EmFrameInv s) (hones : s.ones = 9#4)
    (hflag : s.flag ≠ .integrityPassed) (hzero : s.bitCtr = 0#4) (hrow : s.byteCtr.toNat ≤ 9) :
    EmFrameInv (emRowend b (storeBit b s)) := by
  have hnext : (s.byteCtr + 1).toNat = s.byteCtr.toNat + 1 := by bv_omega
  have hbit : s.bitCtr.toNat = 0 := by rw [hzero]; rfl
  have hstore := memReadBit_storeBit (b := b) hd.bufWf (by omega)
  have hcurrent : rowFailed s.byteCtr.toNat (storeBit b s) = decide (s.rowPar ≠ b) := by
    have hparity : rowParity s.byteCtr.toNat (storeBit b s) = s.rowPar := by
      rw [rowParity_congr fun c hc => (hstore _ c).trans (if_neg (by omega)), h.rowPar hones hflag,
        partialRowParity_of_end hzero]
    rw [rowFailed, hparity, hstore, if_pos ⟨rfl, hbit.symm⟩]
    cases s.rowPar <;> cases b <;> rfl
  rw [emRowend_of_le (s := storeBit b s) hrow]
  refine ⟨h.layout.storeBit hd b, fun _ r hr => ?_, fun _ _ => (partialRowParity_of_start rfl).symm, fun hf => absurd hf hflag⟩
  refine (failMapAfterRow_getLsbD b (s := storeBit b s) hrow r).trans ?_
  change (s.failMap.getLsbD r || (decide (r = s.byteCtr.toNat) && decide (s.rowPar ≠ b))) =
    (decide (r < (s.byteCtr + 1).toNat) && rowFailed r (storeBit b s))
  rw [h.rows hones r hr, hnext]
  by_cases hcur : r = s.byteCtr.toNat
  · rw [hcur, hcurrent]
    simp
  · rw [rowFailed_storeBit hd hcur, rowFailed]
    have hlt : r < s.byteCtr.toNat + 1 ↔ r < s.byteCtr.toNat := by omega
    simp [hcur, hlt]

/-- The last bit: a frame that passes has no failed row and no bad column (rule R127). -/
theorem emFrameInv_frameEnd {b : Bool} {s : State} (hd : EmDecoderInv s) (h : EmFrameInv s) (hones : s.ones = 9#4)
    (hrow : s.byteCtr.toNat = 10) : EmFrameInv (emRowend b (storeBit b s)) := by
  have hlayout := h.layout.storeBit hd b
  rw [emRowend_of_lt (s := storeBit b s) (show 9 < s.byteCtr.toNat by omega)]
  rcases emFrameend_cases { storeBit b s with rowPar := false } with ⟨hgood, he⟩ | ⟨-, he⟩ <;> rw [he]
  · obtain ⟨hrows, hcols⟩ := (failMapAfterColumns_eq_zero _).1 hgood
    refine ⟨hlayout, fun _ r hr => ?_, fun _ hf => absurd rfl hf, fun _ => hcols⟩
    change (0#11).getLsbD r = (decide (r < s.byteCtr.toNat) && rowFailed r (storeBit b s))
    rw [rowFailed_storeBit hd (by omega), rowFailed, ← h.rows hones r hr, BitVec.getLsbD_zero]
    exact (hrows r hr).symm
  · exact resyncEm_emFrameInv hlayout

theorem emBit_keeps_emFrameInv {b : Bool} {s t : State} (hd : EmDecoderInv s) (h : EmFrameInv s)
    (hflag : s.flag ≠ .integrityPassed) (ht : emBit b s = .ok t) : EmFrameInv t := by
  rcases emBit_cases b s with ⟨hones, he⟩ | ⟨hones, he⟩ | ⟨-, he⟩ <;> rw [he] at ht
  · exact Except.ok.inj ht ▸ emBitSeek_keeps_emFrameInv hd h hones
  · rcases emBitStore_cases b s with ⟨-, he⟩ | ⟨m, rfl, -, -, ⟨hpos, he⟩ | ⟨hzero, he⟩⟩ <;> rw [he] at ht
    · cases ht
    · exact Except.ok.inj ht ▸ emFrameInv_inRow hd h hflag hpos
    · obtain rfl := Except.ok.inj ht
      by_cases hrow : s.byteCtr.toNat ≤ 9
      · exact emFrameInv_rowEnd hd h hones hflag hzero hrow
      · have hbyte : s.byteCtr.toNat ≤ 10 := hd.byteCtrLe
        exact emFrameInv_frameEnd hd h hones (by omega)
  · cases ht

theorem emStep_keeps_emFrameInv {cls : PulseClass} {level : Bool} {s t : State} (hd : EmDecoderInv s) (h : EmFrameInv s)
    (hflag : s.flag ≠ .integrityPassed) (ht : emStep cls level s = .ok t) : EmFrameInv t := by
  have withHalf (seen half : Bool) : EmFrameInv { s with longSeen := seen, emHalf := half } := { h with }
  have bit (seen : Bool) (hseen : seen = true) (ht : emBit level { s with longSeen := seen, emHalf := false } = .ok t) :
      EmFrameInv t :=
    emBit_keeps_emFrameInv (hd.withHalf hseen false) (withHalf seen false) hflag ht
  cases cls with
  | invalid => exact Except.ok.inj ht ▸ resyncEm_emFrameInv h.layout
  | long => exact bit true rfl ht
  | short =>
    rcases emShort_cases level s with ⟨-, he⟩ | ⟨-, -, he⟩ | ⟨hlong, -, he⟩ <;> rw [emStep, he] at ht
    · exact Except.ok.inj ht ▸ h
    · exact Except.ok.inj ht ▸ withHalf s.longSeen true
    · exact bit s.longSeen hlong ht

/-! ## FDX-B -/

/-- The CRC verdict is on octets 0 to 9 (rule R158). -/
theorem fdxFrameGood_congr {s t : State} (h : ∀ i, i < 10 → t.buf.read i = s.buf.read i) : fdxFrameGood t = fdxFrameGood s := by
  have hpayload : memRead 0 8 t = memRead 0 8 s :=
    List.map_congr_left fun j hj => h (0 + j) (by have := List.mem_range.1 hj; omega)
  rw [fdxFrameGood, fdxFrameGood, crcCalculated, crcCalculated, crcReceived, crcReceived, hpayload, h 8 (by decide),
    h 9 (by decide)]

theorem fdxFrameInv_of_inProgress {s : State} (h : s.flag = .inProgress) : FdxFrameInv s := by
  simp [FdxFrameInv, h]

/-- From the verdict on, inside an octet, the octet is one of 10 to 12 (rule R158). -/
theorem FdxDecoderInv.ten_le_byteCtr {s : State} (h : FdxDecoderInv s) (hflag : s.flag ≠ .inProgress) (hbit : s.bitCtr < 8#4) :
    10 ≤ s.byteCtr.toNat := by
  have hverdict := mt h.pending.2 hflag
  bv_omega

/-- A bit stored after the verdict leaves octets 0 to 9 alone. -/
theorem FdxFrameInv.store {s t : State} (hd : FdxDecoderInv s) (h : FdxFrameInv s) (hbit : s.bitCtr < 8#4)
    (hflag : s.flag = .passedPending ∨ s.flag = .integrityPassed) {b : Bool} (hbuf : t.buf = (storeBit b s).buf) :
    fdxFrameGood t = true := by
  have hoctet : 10 ≤ s.byteCtr.toNat := hd.ten_le_byteCtr (by rcases hflag with hf | hf <;> simp [hf]) hbit
  rw [← h hflag]
  refine fdxFrameGood_congr fun i hi => ?_
  rw [hbuf]
  exact Memory.read_write_ne _ _ _ _ (by omega)

theorem fdxData_keeps_fdxFrameInv {b : Bool} {w : BitVec 16} {s t : State} (hd : FdxDecoderInv s) (h : FdxFrameInv s)
    (hbit : s.bitCtr < 8#4) (ht : fdxData b { s with tenZ := w } = .ok t) : FdxFrameInv t := by
  rcases fdxData_cases b { s with tenZ := w } with
    ⟨-, he⟩ | ⟨n, rfl, -, -, ⟨-, -, he⟩ | ⟨-, hbyte, he⟩ | ⟨-, he⟩⟩ <;> rw [he] at ht
  · cases ht
  · obtain rfl := Except.ok.inj ht
    rcases fdxCrccheck_cases _ with ⟨hgood, hc⟩ | ⟨-, hc⟩ <;> rw [hc]
    · exact fun _ => beq_iff_eq.2 hgood
    · exact fdxFrameInv_of_inProgress rfl
  · obtain rfl := Except.ok.inj ht
    have hoctet : s.byteCtr = 12#4 := hbyte
    have hverdict : s.flag ≠ .inProgress := mt hd.pending.1 (by bv_omega)
    have hflag : s.flag = .passedPending ∨ s.flag = .integrityPassed := (hd.flagStable.resolve_left hverdict).symm
    exact fun _ => h.store hd hbit hflag rfl
  · obtain rfl := Except.ok.inj ht
    exact fun hflag => h.store hd hbit hflag rfl

theorem fdxBit_keeps_fdxFrameInv {b : Bool} {s t : State} (hd : FdxDecoderInv s) (h : FdxFrameInv s)
    (ht : fdxBit b s = .ok t) : FdxFrameInv t := by
  rcases fdxBit_cases b s with ⟨-, he⟩ | ⟨hbit, he⟩ | ⟨-, he⟩ | ⟨-, -, he⟩ <;> rw [he] at ht
  · obtain rfl := Except.ok.inj ht
    cases headerSeen b s <;> exact h
  · exact fdxData_keeps_fdxFrameInv hd h hbit ht
  · exact Except.ok.inj ht ▸ h
  · cases ht

theorem fdxStep_keeps_fdxFrameInv {cls : PulseClass} {s t : State} (hd : FdxDecoderInv s) (h : FdxFrameInv s)
    (ht : fdxStep cls s = .ok t) : FdxFrameInv t := by
  have bit (b half : Bool) (ht : fdxBit b { s with pulse2 := half } = .ok t) : FdxFrameInv t :=
    fdxBit_keeps_fdxFrameInv (s := { s with pulse2 := half }) { hd with } h ht
  cases cls with
  | invalid => exact Except.ok.inj ht ▸ fdxFrameInv_of_inProgress rfl
  | long => exact bit true false ht
  | short =>
    rcases fdxShort_cases s with ⟨-, he⟩ | ⟨-, -, he⟩ | ⟨-, -, he⟩ <;> rw [fdxStep, he] at ht
    · exact Except.ok.inj ht ▸ h
    · exact Except.ok.inj ht ▸ fdxFrameInv_of_inProgress rfl
    · exact bit false true ht

/-! ## The events -/

/-- The pending trace and the last response take no part in the frame invariant. -/
theorem FrameInv.withTrace {s : State} (h : FrameInv s) (es : List EventWord) (r : Resp) :
    FrameInv { s with events := es, resp := r } := { h with }

theorem FrameInv.withResponse {s : State} (h : FrameInv s) (r : Resp) : FrameInv (respond r s) := { h with }

/-- Nor do the session's registers. -/
theorem FrameInv.withSessionOf {s : State} (h : FrameInv s) (t : State) : FrameInv (s.withSessionOf t) := { h with }

theorem countEdge_keeps_frameInv {s : State} (h : FrameInv s) (now : U32) : FrameInv (countEdge now s) := { h with }

theorem dispatch_keeps_frameInv {cls : PulseClass} {level : Bool} {s t : State} (hc : ControlInv s) (h : FrameInv s)
    (hflag : s.flag ≠ .integrityPassed) (ht : dispatch cls level s = .ok t) : FrameInv t := by
  have hprotocol : t.protocol = s.protocol := by rw [(dispatch_pulseMoves ht).frame]; rfl
  cases hp : s.protocol with
  | em4100 =>
    rw [dispatch_em hp] at ht
    exact (frameInv_iff_em (hprotocol.trans hp)).2
      (emStep_keeps_emFrameInv ((controlInv_iff_em hp).1 hc).2 ((frameInv_iff_em hp).1 h) hflag ht)
  | fdxb =>
    rw [dispatch_fdx hp] at ht
    exact (frameInv_iff_fdx (hprotocol.trans hp)).2
      (fdxStep_keeps_fdxFrameInv ((controlInv_iff_fdx hp).1 hc).2 ((frameInv_iff_fdx hp).1 h) ht)

theorem edge_keeps_frameInv {P : Config.Params} {line : Line} {level : Bool} {now : U32} {s t : State} (hc : ControlInv s)
    (h : FrameInv s) (ht : edge P line level now s = .ok t) : FrameInv t := by
  rcases edge_cases P line level now s with ⟨-, he⟩ | ⟨-, -, he⟩ | ⟨-, hflag, he⟩ <;> rw [he] at ht
  · exact Except.ok.inj ht ▸ h
  · exact Except.ok.inj ht ▸ countEdge_keeps_frameInv h now
  · exact dispatch_keeps_frameInv (countEdge_keeps_controlInv hc now) (countEdge_keeps_frameInv h now) hflag ht

theorem emLayout_nil : EmLayout [] := fun _ _ _ => BitVec.getLsbD_zero

/-- A session starts with no frame and no flag (rule R191, rule R192). -/
theorem readAccept_frameInv (p : Protocol) (c : BitVec 2) (cd rt : U32) (s : State) : FrameInv (readAccept p c cd rt s) := by
  rw [readAccept_eq]
  cases p with
  | em4100 => exact (frameInv_iff_em rfl).2 (emFrameInv_of_start emLayout_nil rfl rfl rfl rfl rfl)
  | fdxb => exact (frameInv_iff_fdx rfl).2 (fdxFrameInv_of_inProgress rfl)

theorem read_keeps_frameInv {p : Protocol} {c : BitVec 2} {cd rt : U32} {s : State} (h : FrameInv s) :
    FrameInv (read params p c cd rt s) := by
  rcases read_cases params p c cd rt s with ⟨-, he⟩ | ⟨-, he⟩ <;> rw [he]
  · exact h.withTrace s.events .reject
  · exact (readAccept_frameInv p c cd rt s).withResponse .ok

theorem shut_keeps_frameInv {s : State} (h : FrameInv s) : FrameInv (shut s) := by
  rcases shut_cases s with ⟨-, he⟩ | ⟨-, he⟩ <;> rw [he] <;> exact { h with }

theorem resetState_frameInv (s : State) : FrameInv (resetState s) :=
  (frameInv_iff_em rfl).2 (emFrameInv_of_start emLayout_nil rfl rfl rfl rfl rfl)

theorem inv_reset : Inv State.reset := ⟨controlInv_reset, (resetState_frameInv State.reset).withTrace [] .silent⟩

/-- Settles O44: the empty buffer at the start of a frame. -/
theorem resetMeetsTheInvariant : Obligations.ResetMeetsTheInvariant := inv_reset

theorem exec_event_keeps_frameInv {i : Instr} {s t : State} (hi : i.isEvent = true) (h : Inv s) (ht : exec i s = .next t) :
    FrameInv t := by
  obtain ⟨hc, hf⟩ := h
  have of_next {u : State} (hu : FrameInv u) (he : Host.Outcome.next u = exec i s) : FrameInv t :=
    Host.Outcome.next.inj (he.trans ht) ▸ hu
  cases i with
  | nop | rdbuf | reserved6 => exact of_next (hf.withResponse _) rfl
  | edge line level now =>
    obtain ⟨u, hu, rfl⟩ := (answer_next _ _ _).1 ht
    exact (edge_keeps_frameInv hc hf hu).withResponse .silent
  | tick =>
    refine of_next (FrameInv.withResponse ?_ .silent) rfl
    rw [tick_frame]
    exact hf.withSessionOf _
  | read p c cd rt => exact of_next (read_keeps_frameInv hf) rfl
  | shut => exact of_next (shut_keeps_frameInv hf) rfl
  | reset => exact of_next ((resetState_frameInv s).withResponse .silent) rfl
  | _ => cases hi

theorem Inv.withTrace {s : State} (h : Inv s) (es : List EventWord) (r : Resp) : Inv { s with events := es, resp := r } :=
  ⟨h.control.withTrace es r, h.frame.withTrace es r⟩

theorem exec_event_keeps_inv {i : Instr} {s t : State} (hi : i.isEvent = true) (h : Inv s) (ht : exec i s = .next t) : Inv t :=
  ⟨exec_event_keeps_controlInv hi h.control ht, exec_event_keeps_frameInv hi h ht⟩

theorem step_keeps_inv {s t : State} (h : Inv s) (ht : step s = .next t) : Inv t := by
  rcases step_cases s with ⟨-, he⟩ | ⟨w, rest, i, -, hdec, he⟩ | ⟨w, rest, e, -, -, he⟩ <;> rw [he] at ht
  · exact exec_event_keeps_inv rfl h ht
  · exact exec_event_keeps_inv (isEvent_of_decode hdec) (h.withTrace rest s.resp) ht
  · exact Host.Outcome.next.inj ht ▸ h.withTrace rest .reject

/-- Settles O46: each decoder keeps its half, and the other events move nothing the frame invariant speaks of. -/
theorem stepKeepsTheInvariant : Obligations.StepKeepsTheInvariant := fun _ _ => step_keeps_inv

/-! ## What a passed frame is -/

/-- A row that has not failed has even parity with its parity bit (rule R126). -/
theorem oddOnes_row_of_not_rowFailed {r : Nat} {s : State} (h : rowFailed r s = false) :
    oddOnes ((List.range 5).map fun k => (s.buf.read r).getLsbD k) = false := by
  have hparity : rowParity r s = memReadBit r 0 s := bne_eq_false_iff_eq.1 h
  have hsum : xorAll ((List.range 5).map fun k => (s.buf.read r).getLsbD k) = (rowParity r s ^^ memReadBit r 0 s) := by
    simp [rowParity, memReadBit, xorAll, List.range_succ, Bool.xor_comm]
  rw [← xorAll_eq_oddOnes, hsum, hparity, Bool.xor_self]

/-- Settles O48: the invariant after the step, with `failMap` 0 and no bad column. -/
theorem passedMeansValidFrame : Obligations.PassedMeansValidFrame := by
  intro s t h ht
  obtain ⟨hc, hf⟩ := step_keeps_inv h ht
  refine ⟨hc.result.2, fun hflag hp => ⟨fun r hr => ?_, fun c hc1 hc4 => ?_⟩, fun hflag hp => ?_⟩
  · obtain ⟨hones, hbyte, -, -, hfail⟩ := hc.emPassed hp hflag
    have hrow := hf.emRows hp hones r hr
    rw [hfail, hbyte, BitVec.getLsbD_zero, decide_eq_true (show r < (10#4).toNat from hr), Bool.true_and] at hrow
    exact oddOnes_row_of_not_rowFailed hrow.symm
  · have hcol := (columnsBad_eq_false t).1 (hf.emColumnsGood hp hflag) c hc1 hc4
    rw [← xorAll_eq_oddOnes, xorAll_map_range_succ, xorAll_eq_oddOnes, hcol, Bool.xor_self]
  · have hgood : crcCalculated t = crcReceived t := beq_iff_eq.1 (hf.fdxCrcGood hp (.inr hflag))
    rw [← le16_toNat]
    exact congrArg BitVec.toNat hgood

end Sys2Proof.Machine
end

section
/-! The flag between arming and completion (rule R28): from PASSED_PENDING it goes back only by a resync, and a passed frame stays
(rule R104, rule R227). -/

namespace Sys2Proof.Machine

/-- After the verdict a decoded bit does not move the flag back (rule R156, rule R157). -/
theorem fdxBit_of_pending {b : Bool} {s t : State} (hd : FdxDecoderInv s) (hflag : s.flag = .passedPending)
    (ht : fdxBit b s = .ok t) : t.flag = .passedPending ∨ t.flag = .integrityPassed := by
  rcases fdxBit_cases b s with ⟨-, he⟩ | ⟨hbit, he⟩ | ⟨-, he⟩ | ⟨-, -, he⟩ <;> rw [he] at ht
  · obtain rfl := Except.ok.inj ht
    cases headerSeen b s <;> exact .inl hflag
  · have hoctet := hd.ten_le_byteCtr (by simp [hflag]) hbit
    rcases fdxData_cases b { s with tenZ := windowAfter b s } with
      ⟨-, he⟩ | ⟨n, rfl, -, -, ⟨-, hnine, -⟩ | ⟨-, -, he⟩ | ⟨-, he⟩⟩
    · simp [he] at ht
    · have hbyte : s.byteCtr = 9#4 := hnine
      bv_omega
    · exact Except.ok.inj (he.symm.trans ht) ▸ .inr rfl
    · exact Except.ok.inj (he.symm.trans ht) ▸ .inl hflag
  · exact Except.ok.inj ht ▸ .inl hflag
  · cases ht

/-- After the verdict a pulse resyncs or does not move the flag back (rule R151 to rule R153). -/
theorem fdxStep_of_pending {cls : PulseClass} {s t : State} (hd : FdxDecoderInv s) (hflag : s.flag = .passedPending)
    (ht : fdxStep cls s = .ok t) : t = resyncFdx s ∨ t.flag = .passedPending ∨ t.flag = .integrityPassed := by
  have bit (b half : Bool) (ht : fdxBit b { s with pulse2 := half } = .ok t) :
      t.flag = .passedPending ∨ t.flag = .integrityPassed :=
    fdxBit_of_pending (s := { s with pulse2 := half }) { hd with } hflag ht
  cases cls with
  | invalid => exact .inl (Except.ok.inj ht).symm
  | long => exact .inr (bit true false ht)
  | short =>
    rcases fdxShort_cases s with ⟨-, he⟩ | ⟨-, -, he⟩ | ⟨-, -, he⟩ <;> rw [fdxStep, he] at ht
    · exact Except.ok.inj ht ▸ .inr (.inl hflag)
    · exact .inl (Except.ok.inj ht).symm
    · exact .inr (bit false true ht)

/-- What rule R28 lets an event do to the flag and to a passed frame, and what rule R161 leaves where the flag goes back. -/
structure FlagKept (i : Instr) (s t : State) : Prop where
  regress : flagRank t.flag < flagRank s.flag →
    (∃ line level now, i = .edge line level now) ∧ s.flag = .passedPending ∧ t.flag = .inProgress ∧
    t.byteCtr = 0#4 ∧ t.bitCtr = 10#4 ∧ t.tenZ = 0xFFFF#16 ∧ t.pulse2 = false ∧ t.pulseCount = s.pulseCount + 1
  passed : s.flag = .integrityPassed → t.flag = .integrityPassed ∧ t.buf = s.buf ∧ t.protocol = s.protocol

/-- An event that moves neither the flag nor the frame. -/
theorem flagKept_of_eq (i : Instr) {s t : State} (hflag : t.flag = s.flag) (hbuf : t.buf = s.buf)
    (hp : t.protocol = s.protocol) : FlagKept i s t :=
  ⟨fun h => absurd h (by rw [hflag]; exact Nat.lt_irrefl _), fun h => ⟨hflag.trans h, hbuf, hp⟩⟩

/-- Below INTEGRITY_PASSED only PASSED_PENDING can be lost, and only to a resync (rule R28). -/
theorem dispatch_flagKept {line : Line} {level level' : Bool} {now : U32} {cls : PulseClass} {s t : State} (hc : ControlInv s)
    (hflag : s.flag ≠ .integrityPassed) (ht : dispatch cls level (countEdge now s) = .ok t) :
    FlagKept (.edge line level' now) s t := by
  refine ⟨fun hlt => ?_, fun hp => absurd hp hflag⟩
  rcases hc.flagStable with hf | hf | ⟨hf, hp⟩
  · simp [hf, flagRank] at hlt
  · exact absurd hf hflag
  · have hd := ((controlInv_iff_fdx hp).1 hc).2
    rw [dispatch_fdx (show (countEdge now s).protocol = .fdxb from hp)] at ht
    rcases fdxStep_of_pending (s := countEdge now s) { hd with } hf ht with rfl | hft | hft
    · exact ⟨⟨line, level', now, rfl⟩, hf, rfl, rfl, rfl, rfl, rfl, rfl⟩
    · simp [hf, hft, flagRank] at hlt
    · simp [hf, hft, flagRank] at hlt

/-- Settles O49: an edge is ignored, counted after success, or dispatched; the other events move neither flag nor frame. -/
theorem flagRegressesOnlyByResync : Obligations.FlagRegressesOnlyByResync := by
  intro i s t hi hc ht hreset hread
  have kept : FlagKept i s t := by
    cases i with
    | nop | rdbuf | reserved6 => exact Host.Outcome.next.inj ht ▸ flagKept_of_eq _ rfl rfl rfl
    | edge line level now =>
      obtain ⟨u, hu, rfl⟩ := (answer_next _ _ _).1 ht
      rcases edge_cases params line level now s with ⟨-, he⟩ | ⟨-, -, he⟩ | ⟨-, hflag, he⟩ <;> rw [he] at hu
      · exact Except.ok.inj hu ▸ flagKept_of_eq _ rfl rfl rfl
      · exact Except.ok.inj hu ▸ flagKept_of_eq _ rfl rfl rfl
      · exact { dispatch_flagKept hc hflag hu with }
    | tick =>
      obtain rfl := Host.Outcome.next.inj ((exec_tick s).symm.trans ht)
      rw [tick_frame]
      exact flagKept_of_eq _ rfl rfl rfl
    | read p c cd rt =>
      obtain rfl := Host.Outcome.next.inj ((exec_read p c cd rt s).symm.trans ht)
      rcases read_cases params p c cd rt s with ⟨-, he⟩ | ⟨-, he⟩
      · rw [he]
        exact flagKept_of_eq _ rfl rfl rfl
      · have hresp := hread ⟨p, c, cd, rt, rfl⟩
        rw [he] at hresp
        cases hresp
    | shut =>
      obtain rfl := Host.Outcome.next.inj ((exec_shut s).symm.trans ht)
      rcases shut_cases s with ⟨-, he⟩ | ⟨-, he⟩ <;> rw [he] <;> exact flagKept_of_eq _ rfl rfl rfl
    | reset => exact absurd rfl hreset
    | _ => cases hi
  exact ⟨kept.regress, kept.passed⟩

end Sys2Proof.Machine
end

section
/-! The CRC notices a changed octet (rule R165): CRC16 of a list in which one byte is changed is another number, because each byte's
step is injective in the byte and in the CRC before it. -/

namespace Sys2Proof.Machine

/-! ## CRC16 is injective in each byte -/

theorem crcShift_getLsbD (c : BitVec 16) (i : Nat) :
    (crcShift c).getLsbD i = (c.getLsbD (i + 1) ^^ (c.getLsbD 0 && (0x8408#16).getLsbD i)) := by
  unfold crcShift
  split
  · next hone => rw [hone, Bool.true_and, BitVec.getLsbD_xor, BitVec.getLsbD_ushiftRight, Nat.add_comm]
  · next hzero =>
    rw [Bool.not_eq_true] at hzero
    rw [hzero, Bool.false_and, Bool.xor_false, BitVec.getLsbD_ushiftRight, Nat.add_comm]

/-- The bit shifted out is seen in bit 15, which the polynomial sets, so an iteration loses nothing (rule R159). -/
theorem crcShift_injective : Function.Injective crcShift := by
  intro c d h
  have hbit (i : Nat) : (c.getLsbD (i + 1) ^^ (c.getLsbD 0 && (0x8408#16).getLsbD i)) =
      (d.getLsbD (i + 1) ^^ (d.getLsbD 0 && (0x8408#16).getLsbD i)) := by
    rw [← crcShift_getLsbD, ← crcShift_getLsbD, h]
  have hout : c.getLsbD 0 = d.getLsbD 0 := by simpa using hbit 15
  refine BitVec.eq_of_getLsbD_eq fun i hi => ?_
  cases i with
  | zero => exact hout
  | succ i =>
    have hnext := hbit i
    rwa [hout, Bool.xor_left_inj] at hnext

theorem crcShifts_injective (n : Nat) : Function.Injective (crcShifts n) := by
  have heq : crcShifts n = crcShift^[n] := funext (crcShifts_eq_iterate n)
  rw [heq]
  exact crcShift_injective.iterate n

theorem crcByte_injective_crc (b : Byte) : Function.Injective (crcByte · b) := fun _ _ h =>
  (BitVec.xor_left_inj _).1 (crcShifts_injective 8 h)

theorem crcByte_injective_byte (crc : BitVec 16) : Function.Injective (crcByte crc) := fun b c h => by
  have hwide : b.zeroExtend 16 = c.zeroExtend 16 := (BitVec.xor_right_inj _).1 (crcShifts_injective 8 h)
  simpa using congrArg (BitVec.setWidth 8) hwide

theorem foldl_crcByte_injective (l : List Byte) : Function.Injective (l.foldl crcByte) := by
  induction l with
  | nil => exact Function.injective_id
  | cons b l ih => exact ih.comp (crcByte_injective_crc b)

/-- A byte put in place of another changes the CRC. -/
theorem getElem_eq_of_foldl_crcByte_set {l : List Byte} {i : Nat} {v : Byte} {crc : BitVec 16} (hi : i < l.length)
    (h : (l.set i v).foldl crcByte crc = l.foldl crcByte crc) : v = l[i] := by
  induction l generalizing i crc with
  | nil => cases hi
  | cons b l ih =>
    cases i with
    | zero => exact crcByte_injective_byte crc (foldl_crcByte_injective l h)
    | succ i => exact ih (by simpa using hi) h

/-! ## The check after one inverted bit -/

/-- The octets of a frame in which one bit was inverted. -/
theorem read_eq_of_setsBit {m m' : Memory} {i k : Nat} {b : Bool} (h : setsBit m m' i k b) {j : Nat} (hj : j ≠ i) :
    m'.read j = m.read j :=
  BitVec.eq_of_getLsbD_eq fun n _ => by rw [h.2, if_neg fun hc => hj hc.1]

theorem read_ne_of_setsBit_not {m m' : Memory} {i k : Nat} (h : setsBit m m' i k (!(m.read i).getLsbD k)) :
    m'.read i ≠ m.read i := by
  intro heq
  have hbit := h.2 i k
  rw [heq, if_pos ⟨rfl, rfl⟩] at hbit
  exact absurd hbit.symm (Bool.not_ne_self _)

theorem memRead_length (i n : Nat) (s : State) : (memRead i n s).length = n := by simp [memRead]

theorem memRead_zero_getElem {n j : Nat} {s : State} (h : j < (memRead 0 n s).length) : (memRead 0 n s)[j] = s.buf.read j := by
  simp [memRead]

/-- A changed payload octet changes the CRC of the payload. -/
theorem crcCalculated_ne {s t : State} {i : Nat} (hi : i < 8) (hne : t.buf.read i ≠ s.buf.read i)
    (hother : ∀ j, j ≠ i → t.buf.read j = s.buf.read j) : crcCalculated t ≠ crcCalculated s := by
  have hset : memRead 0 8 t = (memRead 0 8 s).set i (t.buf.read i) := by
    refine List.ext_getElem (by simp [memRead_length]) fun j hj hj' => ?_
    rw [List.getElem_set, memRead_zero_getElem, memRead_zero_getElem]
    split
    · next heq => rw [heq]
    · next hji => exact hother j (Ne.symm hji)
  intro h
  rw [crcCalculated, crcCalculated, hset] at h
  exact hne ((getElem_eq_of_foldl_crcByte_set (by rwa [memRead_length]) h).trans (memRead_zero_getElem _))

/-- A changed CRC octet changes the received CRC. -/
theorem crcReceived_ne {s t : State} {i : Nat} (hi : i = 8 ∨ i = 9) (hne : t.buf.read i ≠ s.buf.read i)
    (hother : ∀ j, j ≠ i → t.buf.read j = s.buf.read j) : crcReceived t ≠ crcReceived s := by
  intro h
  have hnum := congrArg BitVec.toNat h
  rw [crcReceived, crcReceived, le16_toNat, le16_toNat] at hnum
  rcases hi with rfl | rfl
  · rw [hother 9 (by decide)] at hnum
    exact hne (BitVec.eq_of_toNat_eq (by omega))
  · rw [hother 8 (by decide)] at hnum
    exact hne (BitVec.eq_of_toNat_eq (by omega))

/-- A frame with one changed octet among 0 to 9 has a wrong CRC. -/
theorem fdxFrameGood_eq_false {s t : State} {i : Nat} (hgood : fdxFrameGood s = true) (hi : i < 10)
    (hne : t.buf.read i ≠ s.buf.read i) (hother : ∀ j, j ≠ i → t.buf.read j = s.buf.read j) : fdxFrameGood t = false := by
  have hcrc : crcCalculated s = crcReceived s := beq_iff_eq.1 hgood
  refine beq_eq_false_iff_ne.2 ?_
  by_cases hpayload : i < 8
  · have hreceived : crcReceived t = crcReceived s := by
      rw [crcReceived, crcReceived, hother 8 (by omega), hother 9 (by omega)]
    rw [hreceived, ← hcrc]
    exact crcCalculated_ne hpayload hne hother
  · have hcalculated : crcCalculated t = crcCalculated s := by
      rw [crcCalculated, crcCalculated, memRead, memRead,
        List.map_congr_left fun j hj => hother (0 + j) (by have := List.mem_range.1 hj; omega)]
    rw [hcalculated, hcrc]
    exact (crcReceived_ne (by omega) hne hother).symm

theorem fdxCrccheck_of_good {s : State} (h : fdxFrameGood s = true) : fdxCrccheck s = { s with flag := .passedPending } := by
  rcases fdxCrccheck_cases s with ⟨-, he⟩ | ⟨hbad, -⟩
  · exact he
  · exact absurd (beq_iff_eq.1 h) hbad

theorem fdxCrccheck_of_bad {s : State} (h : fdxFrameGood s = false) : fdxCrccheck s = resyncFdx s := by
  rcases fdxCrccheck_cases s with ⟨hgood, -⟩ | ⟨-, he⟩
  · exact absurd hgood (beq_eq_false_iff_ne.1 h)
  · exact he

theorem runsTo_fdxCrccheck (s : State) : runsTo .fdxCrccheck s (fdxCrccheck s) := ⟨.silent, rfl⟩

/-- Settles O29: the inverted bit changes one octet, and octets 10 to 12 take no part in the check. -/
theorem crcDetectsEverySingleBitFlip : Obligations.CrcDetectsEverySingleBitFlip := by
  intro s m i k hcrc _ _ hflip
  have hgood : fdxFrameGood s = true := beq_iff_eq.2 (BitVec.eq_of_toNat_eq (hcrc.trans (le16_toNat _ _).symm))
  have hother (j : Nat) (hj : j ≠ i) : m.read j = s.buf.read j := read_eq_of_setsBit hflip hj
  have hrun := runsTo_fdxCrccheck { s with buf := m }
  constructor
  · intro hi
    rwa [fdxCrccheck_of_bad (fdxFrameGood_eq_false hgood hi (read_ne_of_setsBit_not hflip) hother)] at hrun
  · intro hi
    rwa [fdxCrccheck_of_good ((fdxFrameGood_congr fun j hj => hother j (by omega)).trans hgood)] at hrun

end Sys2Proof.Machine
end

section
/-! The two line codes read back (rule R94, rule R95): at rest between two bits, the pulses of a Manchester bit are one EM_BIT, and
those of a biphase bit one FDX_BIT. -/

namespace Sys2Proof.Machine

/-! ## Pulses -/

theorem decodePulse_of_not_passed {s : State} (h : s.flag ≠ .integrityPassed) (cls : PulseClass) (level : Bool) :
    decodePulse cls level s = dispatch cls level s := if_neg h

theorem decodePulse_of_passed {s : State} (h : s.flag = .integrityPassed) (cls : PulseClass) (level : Bool) :
    decodePulse cls level s = .ok s := if_pos h

theorem decodePulses_cons (cls : PulseClass) (level : Bool) (ps : List (PulseClass × Bool)) (s : State) :
    decodePulses ((cls, level) :: ps) s = decodePulse cls level s >>= decodePulses ps := by
  rw [decodePulses]
  cases decodePulse cls level s <;> rfl

theorem decodePulses_singleton (cls : PulseClass) (level : Bool) (s : State) :
    decodePulses [(cls, level)] s = decodePulse cls level s := by
  rw [decodePulses]
  cases decodePulse cls level s <;> rfl

theorem decodePulses_append (xs ys : List (PulseClass × Bool)) (s : State) :
    decodePulses (xs ++ ys) s = decodePulses xs s >>= decodePulses ys := by
  induction xs generalizing s with
  | nil => rfl
  | cons p xs ih =>
    rw [List.cons_append, decodePulses_cons, decodePulses_cons]
    cases decodePulse p.1 p.2 s with
    | error f => rfl
    | ok t => exact ih t

theorem decodePulses_append_of_ok {xs : List (PulseClass × Bool)} {s t : State} (h : decodePulses xs s = .ok t)
    (ys : List (PulseClass × Bool)) : decodePulses (xs ++ ys) s = decodePulses ys t := by
  rw [decodePulses_append, h]
  rfl

/-- After success every further pulse is lost (rule R104). -/
theorem decodePulses_of_passed {s : State} (h : s.flag = .integrityPassed) (ps : List (PulseClass × Bool)) :
    decodePulses ps s = .ok s := by
  induction ps with
  | nil => rfl
  | cons p ps ih => rw [decodePulses_cons, decodePulse_of_passed h]; exact ih

/-! ## Manchester -/

/-- The EM4100 decoder at rest between two bits, its gate open (rule R122, rule R123). -/
structure EmReady (s : State) : Prop where
  protocol : s.protocol = .em4100
  flag : s.flag ≠ .integrityPassed
  longSeen : s.longSeen = true
  emHalf : s.emHalf = false

theorem decodePulse_em {s : State} (hp : s.protocol = .em4100) (hflag : s.flag ≠ .integrityPassed) (cls : PulseClass)
    (level : Bool) : decodePulse cls level s = emStep cls level s := by
  rw [decodePulse_of_not_passed hflag, dispatch_em hp]

/-- The pulses of one Manchester bit are one EM_BIT (rule R94). -/
theorem EmReady.decodePulses_bit {s : State} (h : EmReady s) (prev b : Bool) :
    decodePulses (manchesterPulses prev [b]) s = emBit b s := by
  obtain ⟨hp, hflag, hlong, hhalf⟩ := h
  have rest : { s with longSeen := true, emHalf := false } = s := by rw [← hlong, ← hhalf]
  by_cases hb : b = prev
  · have hpulses : manchesterPulses prev [b] = [(.short, !b), (.short, b)] := by simp [manchesterPulses, hb]
    rw [hpulses, decodePulses_cons, decodePulse_em hp hflag, emStep, emShort_of_no_half hlong hhalf]
    refine (decodePulses_singleton .short b { s with emHalf := true }).trans ?_
    rw [decodePulse_em (s := { s with emHalf := true }) hp hflag, emStep,
      emShort_of_half (s := { s with emHalf := true }) hlong rfl]
    have half : { s with emHalf := false } = s := by rw [← hhalf]
    exact congrArg (emBit b) half
  · have hpulses : manchesterPulses prev [b] = [(.long, b)] := by simp [manchesterPulses, hb]
    rw [hpulses, decodePulses_singleton, decodePulse_em hp hflag, emStep, emLong, rest]

theorem manchesterPulses_cons (prev b : Bool) (bs : List Bool) :
    manchesterPulses prev (b :: bs) = manchesterPulses prev [b] ++ manchesterPulses b bs := by
  simp [manchesterPulses]

/-- Manchester pulses are EM_BIT on each bit, as long as the decoder is ready before each (rule R94). -/
theorem decodePulses_manchester {bits : List Bool} {s : State} (prev : Bool)
    (h : ∀ n u, n < bits.length → emBits (bits.take n) s = .ok u → EmReady u) :
    decodePulses (manchesterPulses prev bits) s = emBits bits s := by
  induction bits generalizing prev s with
  | nil => rfl
  | cons b bs ih =>
    have hs : EmReady s := h 0 s (Nat.succ_pos _) rfl
    rw [manchesterPulses_cons, decodePulses_append, hs.decodePulses_bit, emBits]
    cases hb : emBit b s with
    | error f => rfl
    | ok t =>
      refine ih b fun n u hn hu => h (n + 1) u (Nat.succ_lt_succ hn) ?_
      rw [List.take_succ_cons, emBits, hb]
      exact hu

/-! ## Biphase -/

theorem decodePulse_fdx {s : State} (hp : s.protocol = .fdxb) (hflag : s.flag ≠ .integrityPassed) (cls : PulseClass)
    (level : Bool) : decodePulse cls level s = fdxStep cls s := by
  rw [decodePulse_of_not_passed hflag, dispatch_fdx hp]

theorem decodePulse_keeps_fdxb {s t : State} {cls : PulseClass} {level : Bool} (hp : s.protocol = .fdxb)
    (ht : decodePulse cls level s = .ok t) : t.protocol = .fdxb := by
  by_cases hflag : s.flag = .integrityPassed
  · rw [decodePulse_of_passed hflag] at ht
    exact Except.ok.inj ht ▸ hp
  · rw [decodePulse_fdx hp hflag] at ht
    rw [fdxStep_frame ht]
    exact hp

/-- Under FDX-B only the classes of the pulses count (rule R164). -/
theorem decodePulses_eq_of_classes_eq {xs ys : List (PulseClass × Bool)} {s : State} (hp : s.protocol = .fdxb)
    (h : xs.map Prod.fst = ys.map Prod.fst) : decodePulses xs s = decodePulses ys s := by
  induction xs generalizing ys s with
  | nil => rw [List.map_eq_nil_iff.1 h.symm]
  | cons x xs ih =>
    obtain ⟨y, ys, rfl, hxy, htail⟩ := List.map_eq_cons_iff.1 h.symm
    have hhead : decodePulse x.1 x.2 s = decodePulse y.1 y.2 s := by
      rw [← hxy, decodePulse, decodePulse, dispatch_fdx hp, dispatch_fdx hp]
    rw [decodePulses_cons, decodePulses_cons, ← hhead]
    cases ht : decodePulse x.1 x.2 s with
    | error f => rfl
    | ok t => exact ih (decodePulse_keeps_fdxb hp ht) htail.symm

/-- The pulses of biphase bits, at a fixed level. -/
def fdxPulses (bits : List Bool) : List (PulseClass × Bool) := (biphasePulses bits).map fun cls => (cls, false)

theorem biphasePulses_append (xs ys : List Bool) : biphasePulses (xs ++ ys) = biphasePulses xs ++ biphasePulses ys := by
  induction xs with
  | nil => rfl
  | cons b xs ih => rw [List.cons_append, biphasePulses, biphasePulses, ih, List.append_assoc]

theorem fdxPulses_append (xs ys : List Bool) : fdxPulses (xs ++ ys) = fdxPulses xs ++ fdxPulses ys := by
  rw [fdxPulses, biphasePulses_append, List.map_append, fdxPulses, fdxPulses]

/-- The levels of biphase pulses may be any. -/
theorem decodePulses_mapIdx_levels {s : State} (hp : s.protocol = .fdxb) (bits : List Bool) (levels : Nat → Bool) :
    decodePulses ((biphasePulses bits).mapIdx fun k cls => (cls, levels k)) s = decodePulses (fdxPulses bits) s :=
  decodePulses_eq_of_classes_eq hp (List.ext_getElem (by simp [fdxPulses]) fun i _ _ => by simp [fdxPulses])

/-! ### FDX_BIT and the half toggle -/

/-- `s` with the bit `b` stored and the index moved up (rule R156). -/
def storeNext (b : Bool) (s : State) : State := { storeBit b s with bitCtr := s.bitCtr + 1 }

theorem fdxData_of_mid {s : State} (hbyte : s.byteCtr.toNat ≤ 12) (hbit : s.bitCtr.toNat ≤ 7)
    (hmid : s.bitCtr.toNat = 7 → s.byteCtr.toNat ≠ 9 ∧ s.byteCtr.toNat ≠ 12) (b : Bool) :
    fdxData b s = .ok (storeNext b s) := by
  rcases fdxData_cases b s with ⟨hout, -⟩ | ⟨n, rfl, -, -, ⟨h7, h9, -⟩ | ⟨h7, h12, -⟩ | ⟨-, he⟩⟩
  · exact absurd ⟨hbyte, hbit⟩ hout
  · exact absurd (congrArg BitVec.toNat h9) (hmid (congrArg BitVec.toNat h7)).1
  · exact absurd (congrArg BitVec.toNat h12) (hmid (congrArg BitVec.toNat h7)).2
  · exact he

theorem fdxData_of_nine {s : State} (hbit : s.bitCtr.toNat = 7) (hbyte : s.byteCtr.toNat = 9) (b : Bool) :
    fdxData b s = .ok (fdxCrccheck (storeNext b s)) := by
  rcases fdxData_cases b s with ⟨hout, -⟩ | ⟨n, rfl, -, -, ⟨-, -, he⟩ | ⟨-, h12, -⟩ | ⟨hmid, -⟩⟩
  · omega
  · exact he
  · bv_omega
  · exact absurd ⟨BitVec.eq_of_toNat_eq hbit, .inl (BitVec.eq_of_toNat_eq hbyte)⟩ hmid

theorem fdxData_of_twelve {s : State} (hbit : s.bitCtr.toNat = 7) (hbyte : s.byteCtr.toNat = 12) (b : Bool) :
    fdxData b s = .ok (fdxFrameend (storeNext b s)) := by
  rcases fdxData_cases b s with ⟨hout, -⟩ | ⟨n, rfl, -, -, ⟨-, h9, -⟩ | ⟨-, -, he⟩ | ⟨hmid, -⟩⟩
  · omega
  · bv_omega
  · exact he
  · exact absurd ⟨BitVec.eq_of_toNat_eq hbit, .inr (BitVec.eq_of_toNat_eq hbyte)⟩ hmid

/-- `s` with the half toggle given. -/
def State.withPulse2 (half : Bool) (s : State) : State := { s with pulse2 := half }

theorem State.withPulse2_self {s : State} {half : Bool} (h : s.pulse2 = half) : s.withPulse2 half = s := by
  rw [← h]
  rfl

/-- FDX_DATA that does not resync leaves the half toggle alone. -/
theorem fdxData_withPulse2 {b : Bool} {s t : State} (ht : fdxData b s = .ok t) (hstay : t.bitCtr ≠ 10#4) (half : Bool) :
    fdxData b (s.withPulse2 half) = .ok (t.withPulse2 half) := by
  rcases fdxData_cases b s with ⟨-, he⟩ | ⟨n, rfl, hbyte, hbit, ⟨h7, h9, he⟩ | ⟨h7, h12, he⟩ | ⟨hmid, he⟩⟩ <;>
    rw [he] at ht
  · cases ht
  · obtain rfl := Except.ok.inj ht
    rw [fdxData_of_nine (s := s.withPulse2 half) (congrArg BitVec.toNat h7) (congrArg BitVec.toNat h9)]
    refine congrArg Except.ok ?_
    cases hgood : fdxFrameGood (storeNext b s) with
    | true =>
      exact (fdxCrccheck_of_good (s := storeNext b (s.withPulse2 half)) hgood).trans
        (congrArg (State.withPulse2 half) (fdxCrccheck_of_good hgood).symm)
    | false => exact absurd (congrArg State.bitCtr (fdxCrccheck_of_bad hgood)) hstay
  · obtain rfl := Except.ok.inj ht
    exact fdxData_of_twelve (s := s.withPulse2 half) (congrArg BitVec.toNat h7) (congrArg BitVec.toNat h12) b
  · obtain rfl := Except.ok.inj ht
    refine fdxData_of_mid (s := s.withPulse2 half) hbyte hbit (fun h7 => ?_) b
    have hseven : s.bitCtr = 7#4 := BitVec.eq_of_toNat_eq h7
    exact ⟨fun h => hmid ⟨hseven, .inl (BitVec.eq_of_toNat_eq h)⟩, fun h => hmid ⟨hseven, .inr (BitVec.eq_of_toNat_eq h)⟩⟩

/-- So does FDX_BIT: of its parts only a resync writes the toggle (rule R161). -/
theorem fdxBit_withPulse2 {b : Bool} {s t : State} (ht : fdxBit b s = .ok t) (hstay : t.bitCtr = 10#4 → s.bitCtr = 10#4)
    (half : Bool) : fdxBit b (s.withPulse2 half) = .ok (t.withPulse2 half) := by
  rcases fdxBit_cases b s with ⟨hbit, he⟩ | ⟨hbit, he⟩ | ⟨hbit, he⟩ | ⟨-, -, he⟩ <;> rw [he] at ht
  · obtain rfl := Except.ok.inj ht
    rw [fdxBit_of_seek (s := s.withPulse2 half) (congrArg BitVec.toNat hbit)]
    change Except.ok (fdxSeek (headerSeen b s) _) = _
    cases headerSeen b s <;> rfl
  · rw [fdxBit_of_data (s := s.withPulse2 half) hbit]
    refine fdxData_withPulse2 (s := { s with tenZ := windowAfter b s }) ht (fun h10 => ?_) half
    have := hstay h10
    bv_omega
  · obtain rfl := Except.ok.inj ht
    exact fdxBit_of_marker (s := s.withPulse2 half) (congrArg BitVec.toNat hbit) b
  · cases ht

/-- FDX_BIT keeps the half toggle unless it resyncs. -/
theorem pulse2_of_fdxBit {b : Bool} {s t : State} (ht : fdxBit b s = .ok t) (hstay : t.bitCtr = 10#4 → s.bitCtr = 10#4) :
    t.pulse2 = s.pulse2 := by
  have h := fdxBit_withPulse2 ht hstay s.pulse2
  rw [State.withPulse2_self rfl, ht] at h
  rw [Except.ok.inj h]
  rfl

/-- The FDX-B decoder at rest between two bits. -/
structure FdxReady (s : State) : Prop where
  protocol : s.protocol = .fdxb
  flag : s.flag ≠ .integrityPassed
  pulse2 : s.pulse2 = false

/-- The pulses of one biphase bit that does not resync are one FDX_BIT, up to the half toggle after success (rule R95). -/
theorem FdxReady.decodePulses_bit {b : Bool} {s t : State} (h : FdxReady s) (hmarker : s.bitCtr.toNat = 8 → b = true)
    (ht : fdxBit b s = .ok t) (hstay : t.bitCtr = 10#4 → s.bitCtr = 10#4) :
    ∃ half, decodePulses (fdxPulses [b]) s = .ok (t.withPulse2 half) ∧ (t.flag ≠ .integrityPassed → half = false) := by
  obtain ⟨hp, hflag, hhalf⟩ := h
  cases b with
  | true =>
    refine ⟨false, ?_, fun _ => rfl⟩
    rw [show fdxPulses [true] = [(.long, false)] from rfl, decodePulses_singleton, decodePulse_fdx hp hflag]
    exact fdxBit_withPulse2 ht hstay false
  | false =>
    have hfirst : decodePulse .short false s = .ok (t.withPulse2 true) := by
      rw [decodePulse_fdx hp hflag, fdxStep, fdxShort_of_first hhalf (fun h8 => Bool.false_ne_true (hmarker h8))]
      exact fdxBit_withPulse2 ht hstay true
    have hpulses : decodePulses (fdxPulses [false]) s = decodePulse .short false (t.withPulse2 true) := by
      rw [show fdxPulses [false] = [(.short, false), (.short, false)] from rfl, decodePulses_cons, hfirst]
      exact decodePulses_singleton _ _ _
    rw [hpulses]
    by_cases hpassed : t.flag = .integrityPassed
    · exact ⟨true, decodePulse_of_passed (s := t.withPulse2 true) hpassed _ _, fun hf => absurd hpassed hf⟩
    · have htp : t.protocol = .fdxb := by rw [fdxBit_frame ht]; exact hp
      refine ⟨false, ?_, fun _ => rfl⟩
      rw [decodePulse_fdx (s := t.withPulse2 true) htp hpassed]
      exact fdxShort_of_half rfl

/-- Before success they are FDX_BIT exactly. -/
theorem FdxReady.decodePulses_bit_eq {b : Bool} {s t : State} (h : FdxReady s) (hmarker : s.bitCtr.toNat = 8 → b = true)
    (ht : fdxBit b s = .ok t) (hstay : t.bitCtr = 10#4 → s.bitCtr = 10#4) (hflag : t.flag ≠ .integrityPassed) :
    decodePulses (fdxPulses [b]) s = .ok t := by
  obtain ⟨half, hpulses, hhalf⟩ := h.decodePulses_bit hmarker ht hstay
  rw [hpulses, hhalf hflag, State.withPulse2_self ((pulse2_of_fdxBit ht hstay).trans h.pulse2)]

/-- A bit that is neither the last of octet 9 nor the last of octet 12 leaves the flag, and moves on (rule R154). -/
theorem fdxBit_plain {s : State} (hbyte : s.byteCtr.toNat ≤ 12) (hbit : s.bitCtr.toNat ≤ 8 ∨ s.bitCtr.toNat = 10)
    (hmid : s.bitCtr.toNat = 7 → s.byteCtr.toNat ≠ 9 ∧ s.byteCtr.toNat ≠ 12) (b : Bool) :
    ∃ t, fdxBit b s = .ok t ∧ t.flag = s.flag ∧ (t.bitCtr = 10#4 → s.bitCtr = 10#4) := by
  rcases fdxBit_cases b s with ⟨h10, he⟩ | ⟨hlt, he⟩ | ⟨-, he⟩ | ⟨hne, hgt, -⟩
  · refine ⟨_, he, ?_, fun _ => h10⟩
    cases headerSeen b s <;> rfl
  · rw [fdxData_of_mid (s := { s with tenZ := windowAfter b s }) hbyte (Nat.le_of_lt_succ hlt) hmid] at he
    refine ⟨_, he, rfl, fun h10 => ?_⟩
    have hnext : s.bitCtr + 1 = 10#4 := h10
    bv_omega
  · exact ⟨_, he, rfl, nofun⟩
  · bv_omega

/-- Settles O54: each bit's pulses, from rest, are the decoder's operation on the bit. -/
theorem lineCodesReadBack : Obligations.LineCodesReadBack := by
  constructor
  · intro prev b s hp hflag hlong hhalf
    exact EmReady.decodePulses_bit ⟨hp, hflag, hlong, hhalf⟩ prev b
  · intro b levels s hp hflag hhalf hbyte hbit hmarker hmid
    obtain ⟨t, ht, htflag, hstay⟩ := fdxBit_plain hbyte hbit hmid b
    rw [decodePulses_mapIdx_levels hp, ht]
    exact FdxReady.decodePulses_bit_eq ⟨hp, hflag, hhalf⟩ hmarker ht hstay (htflag ▸ hflag)

end Sys2Proof.Machine
end

section
/-! A whole EM4100 frame (rule R92): its 55 bits after the header are valid, its Manchester pulses are EM_BIT on each of its bits, and
the payload view reads its nibbles back (rule R94, rule R227). -/

namespace Sys2Proof.Machine

/-! ## The bits of a frame -/

/-- A list made of pieces of one length: entry `c * q + j` is entry `j` of piece `q`. -/
theorem getElem?_flatMap_of_length {α β : Type} {f : α → List β} {c : Nat} (hc : ∀ x, (f x).length = c) (l : List α) (q : Nat)
    {j : Nat} (hj : j < c) : (l.flatMap f)[c * q + j]? = l[q]? >>= fun x => (f x)[j]? := by
  induction l generalizing q with
  | nil => simp
  | cons x l ih =>
    rw [List.flatMap_cons]
    cases q with
    | zero => simp [List.getElem?_append_left, hc, hj]
    | succ q =>
      have hskip : c * (q + 1) + j - (f x).length = c * q + j := by rw [hc, Nat.mul_succ]; omega
      rw [List.getElem?_append_right (by rw [hc, Nat.mul_succ]; omega), hskip, ih, List.getElem?_cons_succ]

theorem length_flatMap_of_length {α β : Type} {f : α → List β} {c : Nat} (hc : ∀ x, (f x).length = c) (l : List α) :
    (l.flatMap f).length = c * l.length := by
  induction l with
  | nil => simp
  | cons x l ih => rw [List.flatMap_cons, List.length_append, ih, hc, List.length_cons, Nat.mul_succ, Nat.add_comm]

theorem emRowBits_length (n : BitVec 4) : (emRowBits n).length = 5 := rfl

/-- Bit `j` of data row `r` of a frame is that of its nibble's row. -/
theorem emBodyBit_row {nibbles : List (BitVec 4)} (hlen : nibbles.length = 10) (stop : Bool) {r j : Nat} (hr : r < 10)
    (hj : j < 5) : emBodyBit (emBody nibbles stop) r j = (emRowBits (nibbles.getD r 0#4)).getD j false := by
  have hrows : 5 * r + j < (nibbles.flatMap emRowBits).length := by
    rw [length_flatMap_of_length emRowBits_length, hlen]
    omega
  rw [emBodyBit, emBody, List.append_assoc, List.getD_eq_getElem?_getD, List.getElem?_append_left hrows,
    getElem?_flatMap_of_length emRowBits_length _ _ hj]
  simp [hlen, hr]

/-- Bit `j` of the last row is a column parity, or the stop bit. -/
theorem emBodyBit_last {nibbles : List (BitVec 4)} (hlen : nibbles.length = 10) (stop : Bool) (j : Nat) :
    emBodyBit (emBody nibbles stop) 10 j = (nibbleBits (emColumns nibbles) ++ [stop]).getD j false := by
  have hrows : (nibbles.flatMap emRowBits).length = 50 := by rw [length_flatMap_of_length emRowBits_length, hlen]
  rw [emBodyBit, emBody, List.append_assoc, List.getD_eq_getElem?_getD, List.getElem?_append_right (by omega), hrows,
    show 5 * 10 + j - 50 = j by omega, List.getD_eq_getElem?_getD]

theorem nibbleBits_getD (n : BitVec 4) {j : Nat} (hj : j < 4) (tail : List Bool) :
    (nibbleBits n ++ tail).getD j false = n.getLsbD (3 - j) := by
  match j, hj with
  | 0, _ | 1, _ | 2, _ | 3, _ => rfl

/-- A data bit of a frame. -/
theorem emBodyBit_data {nibbles : List (BitVec 4)} (hlen : nibbles.length = 10) (stop : Bool) {r j : Nat} (hr : r < 10)
    (hj : j < 4) : emBodyBit (emBody nibbles stop) r j = (nibbles.getD r 0#4).getLsbD (3 - j) := by
  rw [emBodyBit_row hlen stop hr (by omega), emRowBits, nibbleBits_getD _ hj]

theorem emBody_length {nibbles : List (BitVec 4)} (hlen : nibbles.length = 10) (stop : Bool) :
    (emBody nibbles stop).length = 55 := by
  simp [emBody, nibbleBits, length_flatMap_of_length emRowBits_length, hlen]

/-! ## A frame is valid -/

theorem xorAll_concat (l : List Bool) (b : Bool) : xorAll (l ++ [b]) = (xorAll l ^^ b) := by
  induction l with
  | nil => simp [xorAll]
  | cons a l ih => simp [xorAll, ih]

/-- A data row and its parity bit have even parity (rule R92). -/
theorem emRowXor_emBody {nibbles : List (BitVec 4)} (hlen : nibbles.length = 10) (stop : Bool) {r : Nat} (hr : r < 10) :
    emRowXor (emBody nibbles stop) r 5 = false := by
  have hrow : (List.range 5).map (emBodyBit (emBody nibbles stop) r) = emRowBits (nibbles.getD r 0#4) := by
    refine List.ext_getElem (by simp [emRowBits_length]) fun j hj hj' => ?_
    rw [List.getElem_map, List.getElem_range, emBodyBit_row hlen stop hr (emRowBits_length _ ▸ hj'),
      List.getD_eq_getElem _ _ hj']
  rw [emRowXor, hrow, emRowBits, xorAll_concat, Bool.xor_self]

/-- The XOR of nibbles is the XOR of their bits, position by position. -/
theorem foldl_xor_getLsbD (l : List (BitVec 4)) (a : BitVec 4) (c : Nat) :
    (l.foldl (· ^^^ ·) a).getLsbD c = (a.getLsbD c ^^ xorAll (l.map fun n => n.getLsbD c)) := by
  induction l generalizing a with
  | nil => simp [xorAll]
  | cons n l ih => rw [List.foldl_cons, ih, BitVec.getLsbD_xor, List.map_cons, xorAll, Bool.xor_assoc]

/-- A column and its parity bit have even parity (rule R92). -/
theorem emColumnXor_emBody {nibbles : List (BitVec 4)} (hlen : nibbles.length = 10) (stop : Bool) {j : Nat} (hj : j < 4) :
    emColumnXor (emBody nibbles stop) j 11 = false := by
  have hcolumn : ((List.range 10).map fun r => emBodyBit (emBody nibbles stop) r j) =
      nibbles.map fun n => n.getLsbD (3 - j) := by
    refine List.ext_getElem (by simp [hlen]) fun r hr hr' => ?_
    rw [List.length_map, hlen] at hr'
    simp [emBodyBit_data hlen stop hr' hj, hlen, hr']
  rw [emColumnXor_succ, emColumnXor, hcolumn, emBodyBit_last hlen, nibbleBits_getD _ hj, emColumns, foldl_xor_getLsbD]
  simp

theorem emBodyValid_emBody {nibbles : List (BitVec 4)} (hlen : nibbles.length = 10) (stop : Bool) :
    emBodyValid (emBody nibbles stop) = true :=
  (emBodyValid_iff _).2 ⟨fun _ hr => emRowXor_emBody hlen stop hr, fun _ hj => emColumnXor_emBody hlen stop hj⟩

/-! ## The decoder stays ready -/

/-- EM_BIT keeps the decoder ready, but for the last bit of a frame (rule R124 to rule R126). -/
theorem EmReady.emBit {b : Bool} {s t : State} (h : EmReady s) (hpos : s.byteCtr.toNat ≤ 9 ∨ 1 ≤ s.bitCtr.toNat)
    (ht : emBit b s = .ok t) : EmReady t := by
  obtain ⟨hp, hflag, hlong, hhalf⟩ := h
  rcases emBit_cases b s with ⟨-, he⟩ | ⟨-, he⟩ | ⟨-, he⟩ <;> rw [he] at ht
  · obtain rfl := Except.ok.inj ht
    rw [emBitSeek_eq]
    exact ⟨hp, hflag, hlong, hhalf⟩
  · rcases emBitStore_cases b s with ⟨-, he⟩ | ⟨m, rfl, -, -, ⟨-, he⟩ | ⟨hzero, he⟩⟩ <;> rw [he] at ht
    · cases ht
    · exact Except.ok.inj ht ▸ ⟨hp, hflag, hlong, hhalf⟩
    · have hrow : s.byteCtr.toNat ≤ 9 := hpos.resolve_right (by simp [hzero])
      rw [emRowend_of_le (by exact hrow)] at ht
      exact Except.ok.inj ht ▸ ⟨hp, hflag, hlong, hhalf⟩
  · cases ht

/-- The decoder is ready before each of the 55 bits. -/
theorem emReady_body {bits : List Bool} {s : State} (hlen : bits.length = 55) (hready : EmReady s)
    (h : EmAssembled bits 0 0 s) {n : Nat} {u : State} (hn : n < 55) (hu : emBits (bits.take n) s = .ok u) : EmReady u := by
  induction n generalizing u with
  | zero => exact Except.ok.inj hu ▸ hready
  | succ n ih =>
    obtain ⟨v, hv, hass⟩ := emBits_take_assembled hlen h n (by omega)
    have hlt : n < bits.length := by omega
    rw [← List.take_concat_get' _ _ hlt, emBits_append _ _ hv, emBits] at hu
    cases hb : Machine.emBit bits[n] v with
    | error f => simp [hb] at hu
    | ok w =>
      rw [hb] at hu
      obtain rfl := Except.ok.inj hu
      refine (ih (by omega) hv).emBit ?_ hb
      rw [hass.byteCtr, hass.bitCtr]
      omega

/-- The header is nine ones (rule R124). -/
theorem emBits_replicate_true (n : Nat) (s : State) (h : s.ones.toNat + n ≤ 9) :
    emBits (List.replicate n true) s = .ok { s with ones := s.ones + BitVec.ofNat 4 n } := by
  induction n generalizing s with
  | zero => simp [emBits]
  | succ n ih =>
    rw [List.replicate_succ, emBits, emBit_of_lt (by omega)]
    refine (ih { s with ones := s.ones + 1 } (by simp only; bv_omega)).trans ?_
    have hsum : s.ones + 1 + BitVec.ofNat 4 n = s.ones + BitVec.ofNat 4 (n + 1) := by bv_omega
    rw [hsum]

/-- The decoder is ready before each bit of a frame. -/
theorem emReady_frame {nibbles : List (BitVec 4)} (hlen : nibbles.length = 10) (stop : Bool) {s u : State} (hready : EmReady s)
    (hones : s.ones = 0#4) (hass : EmAssembled (emBody nibbles stop) 0 0 { s with ones := 9 }) {n : Nat}
    (hn : n < (emFrame nibbles stop).length) (hu : emBits ((emFrame nibbles stop).take n) s = .ok u) : EmReady u := by
  have hheader (k : Nat) (hk : k ≤ 9) := emBits_replicate_true k s (by simp [hones, hk])
  have hbody := emBody_length hlen stop
  by_cases h9 : n ≤ 9
  · rw [emFrame, List.take_append_of_le_length (by simpa using h9), List.take_replicate, Nat.min_eq_left h9,
      hheader n h9] at hu
    exact Except.ok.inj hu ▸ { hready with }
  · rw [emFrame, List.length_append, List.length_replicate, hbody] at hn
    rw [emFrame, List.take_append, List.take_of_length_le (by simp; omega), emBits_append _ _ (hheader 9 (by decide)),
      List.length_replicate, hones] at hu
    exact emReady_body hbody (s := { s with ones := 9 }) { hready with } hass (by omega) hu

/-- A first LONG opens the gate, so it may as well have been open (rule R122). -/
theorem decodePulses_long_cons {s : State} (hp : s.protocol = .em4100) (hflag : s.flag ≠ .integrityPassed) (level : Bool)
    (ps : List (PulseClass × Bool)) :
    decodePulses ((.long, level) :: ps) s = decodePulses ((.long, level) :: ps) { s with longSeen := true } := by
  rw [decodePulses_cons, decodePulses_cons, decodePulse_em hp hflag,
    decodePulse_em (s := { s with longSeen := true }) hp hflag]
  rfl

/-- The payload view of the stored frame (rule R220). -/
theorem emPayload_of_emStored {nibbles : List (BitVec 4)} (hlen : nibbles.length = 10) {stop : Bool} {t : State}
    (h : EmStored (emBody nibbles stop) 10 5 t.buf) :
    emPayload (rawFrame t) = (List.range 5).map fun k => nibbles.getD (2 * k) 0#4 ++ nibbles.getD (2 * k + 1) 0#4 := by
  have hbit (r j : Nat) (hr : r < 10) (hj : j < 4) : (t.buf.read r).getLsbD (j + 1) = (nibbles.getD r 0#4).getLsbD j := by
    have hstored := h r (3 - j) (by omega) (by omega)
    rw [emBodyBit_data hlen stop hr (by omega)] at hstored
    rwa [show 4 - (3 - j) = j + 1 by omega, show 3 - (3 - j) = j by omega] at hstored
  refine List.map_congr_left fun k hk => BitVec.eq_of_getLsbD_eq fun j hj => ?_
  have hk5 : k < 5 := List.mem_range.1 hk
  rw [emByte_getLsbD _ _ hj, rawByte_rawFrame (by omega), rawByte_rawFrame (by omega), BitVec.getLsbD_append]
  by_cases hlow : j < 4
  · simp [hlow, hbit (2 * k + 1) j (by omega) hlow]
  · have hhigh := hbit (2 * k) (j - 4) (by omega) (by omega)
    rw [show j - 4 + 1 = j - 3 by omega] at hhigh
    simp [hlow, hhigh]

/-- Settles O52: the pulses are the frame's bits, the bits are valid, and the stored rows are its nibbles. -/
theorem emFrameRoundTrip : Obligations.EmFrameRoundTrip := by
  intro nibbles stop s hlen hwf hp hones hbyte hbit hpar hfail _ hhalf hflag
  have hnotPassed : s.flag ≠ .integrityPassed := by simp [hflag]
  have hready : EmReady { s with longSeen := true } := ⟨hp, hnotPassed, rfl, hhalf⟩
  have hass : EmAssembled (emBody nibbles stop) 0 0 { s with longSeen := true, ones := 9 } :=
    emAssembled_start _ hwf rfl hbyte hbit hpar hfail
  obtain ⟨_, t, -, -, ht, hgood, -⟩ := emBits_body (emBody_length hlen stop) hass
  obtain ⟨hpassed, hstored⟩ := hgood (emBodyValid_emBody hlen stop)
  have hpulses : decodePulses (manchesterPulses false (emFrame nibbles stop)) s = .ok t := by
    calc decodePulses (manchesterPulses false (emFrame nibbles stop)) s
      _ = decodePulses (manchesterPulses false (emFrame nibbles stop)) { s with longSeen := true } :=
        decodePulses_long_cons hp hnotPassed true _
      _ = emBits (emFrame nibbles stop) { s with longSeen := true } :=
        decodePulses_manchester false fun _ _ => emReady_frame hlen stop hready hones hass
      _ = .ok t := by
        rw [emFrame, emBits_append _ _ (emBits_replicate_true 9 { s with longSeen := true } (by simp [hones]))]
        simpa [hones] using ht
  refine ⟨t, hpulses, hpassed, emPayload_of_emStored hlen hstored, ?_⟩
  have hlast := hstored 10 4 (by decide) (by decide)
  rwa [emBodyBit_last hlen] at hlast

end Sys2Proof.Machine
end

section
/-! A whole FDX-B frame (rule R93) in biphase code: the header starts ASSEMBLE, and `FdxAssembled` says what the registers hold once
the bits before position `j` of octet `r` have been taken, position 8 being the marker (rule R95, rule R154 to rule R158). -/

namespace Sys2Proof.Machine

/-! ## The header -/

/-- Zeros in SEEK_HEADER only move the window (rule R154, rule R155). -/
theorem decodePulses_header_zeros (n : Nat) {s : State} (h : FdxReady s) (hbit : s.bitCtr = 10#4) :
    decodePulses (fdxPulses (List.replicate n false)) s = .ok { s with tenZ := s.tenZ <<< n } := by
  induction n with
  | zero => simp [fdxPulses, biphasePulses, decodePulses]
  | succ n ih =>
    rw [List.replicate_succ', fdxPulses_append, decodePulses_append_of_ok ih]
    refine FdxReady.decodePulses_bit_eq { h with } (by simp [hbit]) ?_ (fun _ => hbit) h.flag
    rw [fdxBit_of_seek (by simp [hbit]), headerSeen, Bool.and_false, fdxSeek, windowAfter, BitVec.shiftLeft_add]
    simp [bitAs]

/-- Ten zeros and a 1 after the cleared window start ASSEMBLE (rule R155). -/
theorem decodePulses_header {s : State} (h : FdxReady s) (hbit : s.bitCtr = 10#4) (hwindow : s.tenZ = 0xFFFF#16) :
    ∃ w, decodePulses (fdxPulses (List.replicate 10 false ++ [true])) s =
      .ok { s with tenZ := w, byteCtr := 0, bitCtr := 0 } := by
  refine ⟨windowAfter true { s with tenZ := s.tenZ <<< 10 }, ?_⟩
  rw [fdxPulses_append, decodePulses_append_of_ok (decodePulses_header_zeros 10 h hbit)]
  refine FdxReady.decodePulses_bit_eq { h with } (by simp [hbit]) ?_ (fun _ => hbit) h.flag
  have hseen : headerSeen true { s with tenZ := s.tenZ <<< 10 } = true := by
    change ((s.tenZ <<< 10).extractLsb' 0 10 == 0#10 && true) = true
    rw [hwindow]
    decide
  rw [fdxBit_of_seek (by simp [hbit]), hseen]
  rfl

/-! ## The octets and their markers -/

/-- The bits of a frame after its header (rule R93). -/
def fdxBody (octets : List Byte) : List Bool := octets.flatMap fun o => octetBits o ++ [true]

theorem fdxFrame_eq (octets : List Byte) : fdxFrame octets = List.replicate 10 false ++ [true] ++ fdxBody octets := rfl

/-- Position `j` of octet `r`: a bit of the octet, or the marker. -/
def fdxBodyBit (octets : List Byte) (r j : Nat) : Bool := if j < 8 then (octets.getD r 0#8).getLsbD j else true

theorem octetBits_marker_getElem? (o : Byte) {j : Nat} (hj : j < 9) :
    (octetBits o ++ [true])[j]? = some (if j < 8 then o.getLsbD j else true) := by
  match j, hj with
  | 0, _ | 1, _ | 2, _ | 3, _ | 4, _ | 5, _ | 6, _ | 7, _ | 8, _ => rfl

theorem fdxBody_length {octets : List Byte} (hlen : octets.length = 13) : (fdxBody octets).length = 117 := by
  rw [fdxBody, length_flatMap_of_length (c := 9) (fun _ => by simp [octetBits]), hlen]

theorem fdxBody_getElem {octets : List Byte} (hlen : octets.length = 13) {n : Nat} (hn : n < (fdxBody octets).length) :
    (fdxBody octets)[n] = fdxBodyBit octets (n / 9) (n % 9) := by
  have hoctet : n / 9 < octets.length := by rw [fdxBody_length hlen] at hn; omega
  have hpiece := getElem?_flatMap_of_length (f := fun o => octetBits o ++ [true]) (c := 9) (fun _ => by simp [octetBits]) octets
    (n / 9) (Nat.mod_lt n (by decide))
  rw [Nat.div_add_mod, List.getElem?_eq_getElem hoctet] at hpiece
  refine Option.some.inj ((List.getElem?_eq_getElem hn).symm.trans (hpiece.trans ?_))
  rw [fdxBodyBit, List.getD_eq_getElem _ _ hoctet]
  exact octetBits_marker_getElem? _ (Nat.mod_lt n (by decide))

/-! ## The registers while the bits arrive -/

/-- The octets' bits before position `j` of octet `r` stand in the buffer (rule R62). -/
def FdxStored (octets : List Byte) (r j : Nat) (m : Memory) : Prop :=
  ∀ q l, l < 8 → 9 * q + l < 9 * r + j → (m.read q).getLsbD l = (octets.getD q 0#8).getLsbD l

/-- ASSEMBLE before position `j` of octet `r` (rule R26, rule R27). -/
structure FdxAssembled (octets : List Byte) (r j : Nat) (s : State) : Prop where
  ready : FdxReady s
  byteCtr : s.byteCtr.toNat = r
  bitCtr : s.bitCtr.toNat = j
  bufWf : s.buf.wf = true
  stored : FdxStored octets r j s.buf

/-- The octets before the current one are complete. -/
theorem FdxStored.read_eq {octets : List Byte} {r j : Nat} {m : Memory} (h : FdxStored octets r j m) {q : Nat}
    (hq : 9 * q + 7 < 9 * r + j) : m.read q = octets.getD q 0#8 :=
  BitVec.eq_of_getLsbD_eq fun l hl => h q l hl (by omega)

theorem FdxAssembled.stored_storeNext {octets : List Byte} {r j : Nat} {s : State} (h : FdxAssembled octets r j s) (hj : j < 8) :
    FdxStored octets r (j + 1) (storeNext (fdxBodyBit octets r j) s).buf := by
  intro q l hl hlt
  have hbit := h.bitCtr
  refine (memReadBit_storeBit h.bufWf (by omega) q l).trans ?_
  rw [h.byteCtr, hbit]
  split
  · next hcur => rw [hcur.1, hcur.2, fdxBodyBit, if_pos hj]
  · next hother => exact h.stored q l hl (by omega)

/-- A data bit that is not the frame's last moves on by one position. -/
theorem FdxAssembled.next {octets : List Byte} {r j : Nat} {s : State} (h : FdxAssembled octets r j s) (hr : r ≤ 12) (hj : j < 8)
    (w : BitVec 16) {f : Flag} (hf : f ≠ .integrityPassed) :
    FdxAssembled octets r (j + 1)
      { storeNext (fdxBodyBit octets r j) s with tenZ := w, flag := f } where
  ready := ⟨h.ready.protocol, hf, h.ready.pulse2⟩
  byteCtr := h.byteCtr
  bitCtr := by
    have hbit := h.bitCtr
    change (s.bitCtr + 1).toNat = j + 1
    bv_omega
  bufWf := by
    have hbyte := h.byteCtr
    exact Memory.wf_write _ _ _ (by omega) h.bufWf
  stored := h.stored_storeNext hj

/-- A data bit that ends neither octet 9 nor octet 12 (rule R156). -/
theorem FdxAssembled.step_mid {octets : List Byte} {r j : Nat} {s : State} (h : FdxAssembled octets r j s) (hr : r ≤ 12)
    (hj : j < 8) (hmid : j = 7 → r ≠ 9 ∧ r ≠ 12) :
    ∃ t, decodePulses (fdxPulses [fdxBodyBit octets r j]) s = .ok t ∧ FdxAssembled octets r (j + 1) t := by
  have hbyte := h.byteCtr
  have hbit := h.bitCtr
  have hnext := h.next hr hj (windowAfter (fdxBodyBit octets r j) s) h.ready.flag
  have ht : fdxBit (fdxBodyBit octets r j) s =
      .ok (storeNext (fdxBodyBit octets r j) { s with tenZ := windowAfter (fdxBodyBit octets r j) s }) := by
    rw [fdxBit_of_data (by omega)]
    exact fdxData_of_mid (s := { s with tenZ := windowAfter _ s }) (hbyte.trans_le hr) (Nat.le_of_lt_succ (hbit.trans_lt hj))
      (fun h7 => hbyte.symm ▸ hmid (hbit.symm.trans h7)) _
  refine ⟨_, h.ready.decodePulses_bit_eq (by omega) ht (fun h10 => ?_) h.ready.flag, hnext⟩
  have hten : j + 1 = 10 := hnext.bitCtr.symm.trans (congrArg BitVec.toNat h10)
  omega

/-- The payload and its CRC in the buffer, the check is right (rule R158). -/
theorem fdxFrameGood_of_stored {octets : List Byte} {s : State} (hlen : octets.length = 13)
    (hcrc : (crc16 (octets.take 8)).toNat = 256 * (octets.getD 9 0#8).toNat + (octets.getD 8 0#8).toNat)
    (h : FdxStored octets 9 8 s.buf) : fdxFrameGood s = true := by
  have hpayload : memRead 0 8 s = octets.take 8 := by
    refine List.ext_getElem (by simp [memRead, hlen]) fun q hq hq' => ?_
    have hq8 : q < 8 := by simpa [memRead] using hq
    rw [memRead_zero_getElem, h.read_eq (by omega), List.getElem_take, List.getD_eq_getElem]
  refine beq_iff_eq.2 (BitVec.eq_of_toNat_eq ?_)
  rw [crcCalculated, hpayload, hcrc, crcReceived, le16_toNat, h.read_eq (by decide), h.read_eq (by decide)]

/-- The last bit of octet 9: the CRC is right (rule R158). -/
theorem FdxAssembled.step_nine {octets : List Byte} {s : State} (h : FdxAssembled octets 9 7 s) (hlen : octets.length = 13)
    (hcrc : (crc16 (octets.take 8)).toNat = 256 * (octets.getD 9 0#8).toNat + (octets.getD 8 0#8).toNat) :
    ∃ t, decodePulses (fdxPulses [fdxBodyBit octets 9 7]) s = .ok t ∧ FdxAssembled octets 9 8 t := by
  have hbit := h.bitCtr
  have hnext := h.next (by decide) (by decide) (windowAfter (fdxBodyBit octets 9 7) s) (f := .passedPending) nofun
  refine ⟨_, h.ready.decodePulses_bit_eq (by omega) ?_ (fun h10 => ?_) (by exact nofun), hnext⟩
  · rw [fdxBit_of_data (by omega), fdxData_of_nine (by exact hbit) (by exact h.byteCtr)]
    exact congrArg Except.ok (fdxCrccheck_of_good (fdxFrameGood_of_stored hlen hcrc hnext.stored))
  · exact absurd (hnext.bitCtr.symm.trans (congrArg BitVec.toNat h10)) (by decide)

/-- The last bit of octet 12: the frame has passed (rule R160). -/
theorem FdxAssembled.step_twelve {octets : List Byte} {s : State} (h : FdxAssembled octets 12 7 s) :
    ∃ t, decodePulses (fdxPulses [fdxBodyBit octets 12 7]) s = .ok t ∧ t.flag = .integrityPassed ∧
      FdxStored octets 12 8 t.buf := by
  have hbit := h.bitCtr
  have ht : fdxBit (fdxBodyBit octets 12 7) s =
      .ok (fdxFrameend (storeNext (fdxBodyBit octets 12 7) { s with tenZ := windowAfter (fdxBodyBit octets 12 7) s })) := by
    rw [fdxBit_of_data (by omega), fdxData_of_twelve (by exact hbit) (by exact h.byteCtr)]
  obtain ⟨half, hpulses, -⟩ := h.ready.decodePulses_bit (by omega) ht fun h10 => by
    have hnext : s.bitCtr + 1 = 10#4 := h10
    bv_omega
  exact ⟨_, hpulses, rfl, h.stored_storeNext (by decide)⟩

/-- A marker leads to the next octet (rule R157). -/
theorem FdxAssembled.step_marker {octets : List Byte} {r : Nat} {s : State} (h : FdxAssembled octets r 8 s) (hr : r < 12) :
    ∃ t, decodePulses (fdxPulses [fdxBodyBit octets r 8]) s = .ok t ∧ FdxAssembled octets (r + 1) 0 t := by
  have hbyte := h.byteCtr
  refine ⟨_, h.ready.decodePulses_bit_eq (fun _ => rfl) (fdxBit_of_marker h.bitCtr _) nofun h.ready.flag, ⟨h.ready.protocol,
    h.ready.flag, h.ready.pulse2⟩, ?_, rfl, h.bufWf, fun q l hl hlt => h.stored q l hl (by omega)⟩
  change (s.byteCtr + 1).toNat = r + 1
  bv_omega

/-! ## All octets -/

/-- Up to the last bit of octet 12 every bit is taken in its place. -/
theorem fdxAssembled_take {octets : List Byte} {s : State} (hlen : octets.length = 13)
    (hcrc : (crc16 (octets.take 8)).toNat = 256 * (octets.getD 9 0#8).toNat + (octets.getD 8 0#8).toNat)
    (h : FdxAssembled octets 0 0 s) (n : Nat) (hn : n ≤ 115) :
    ∃ u, decodePulses (fdxPulses ((fdxBody octets).take n)) s = .ok u ∧ FdxAssembled octets (n / 9) (n % 9) u := by
  induction n with
  | zero => exact ⟨s, rfl, h⟩
  | succ n ih =>
    obtain ⟨u, hu, hass⟩ := ih (by omega)
    have hlt : n < (fdxBody octets).length := by rw [fdxBody_length hlen]; omega
    rw [← List.take_concat_get' _ _ hlt, fdxPulses_append, decodePulses_append_of_ok hu, fdxBody_getElem hlen hlt]
    by_cases hmarker : n % 9 = 8
    · rw [show (n + 1) / 9 = n / 9 + 1 by omega, show (n + 1) % 9 = 0 by omega, hmarker]
      exact (hmarker ▸ hass).step_marker (by omega)
    · rw [show (n + 1) / 9 = n / 9 by omega, show (n + 1) % 9 = n % 9 + 1 by omega]
      by_cases hnine : n % 9 = 7 ∧ n / 9 = 9
      · rw [hnine.1, hnine.2] at hass ⊢
        exact hass.step_nine hlen hcrc
      · exact hass.step_mid (by omega) (by omega) (by omega)

/-- The frame passes with its octets stored, and its last marker is lost (rule R104, rule R160). -/
theorem decodePulses_fdxBody {octets : List Byte} {s : State} (hlen : octets.length = 13)
    (hcrc : (crc16 (octets.take 8)).toNat = 256 * (octets.getD 9 0#8).toNat + (octets.getD 8 0#8).toNat)
    (h : FdxAssembled octets 0 0 s) :
    ∃ t, decodePulses (fdxPulses (fdxBody octets)) s = .ok t ∧ t.flag = .integrityPassed ∧ FdxStored octets 12 8 t.buf := by
  have hlt : 115 < (fdxBody octets).length := by rw [fdxBody_length hlen]; decide
  obtain ⟨u, hu, hass⟩ := fdxAssembled_take hlen hcrc h 115 (Nat.le_refl _)
  obtain ⟨t, ht, hpassed, hstored⟩ := hass.step_twelve
  refine ⟨t, ?_, hpassed, hstored⟩
  rw [← List.take_append_drop 116 (fdxBody octets), ← List.take_concat_get' _ _ hlt, List.append_assoc, fdxPulses_append,
    decodePulses_append_of_ok hu, fdxPulses_append, fdxBody_getElem hlen hlt, decodePulses_append_of_ok ht]
  exact decodePulses_of_passed hpassed _

/-- Settles O53: the header starts ASSEMBLE, each bit is stored in its place, and the check and the end of the frame come in
between. -/
theorem fdxFrameRoundTrip : Obligations.FdxFrameRoundTrip := by
  intro octets levels s hlen hwf hp hcrc hbyte hbit hwindow hhalf hflag
  have hready : FdxReady s := ⟨hp, by simp [hflag], hhalf⟩
  obtain ⟨w, hheader⟩ := decodePulses_header hready hbit hwindow
  have hass : FdxAssembled octets 0 0 { s with tenZ := w, byteCtr := 0, bitCtr := 0 } :=
    ⟨{ hready with }, rfl, rfl, hwf, fun _ _ _ hlt => by omega⟩
  obtain ⟨t, ht, hpassed, hstored⟩ := decodePulses_fdxBody hlen hcrc hass
  refine ⟨t, ?_, hpassed, ?_⟩
  · rw [decodePulses_mapIdx_levels hp, fdxFrame_eq, fdxPulses_append, decodePulses_append_of_ok hheader, ht]
  · refine List.ext_getElem (by simp [rawFrame, memRead, hlen]) fun q hq hq' => ?_
    rw [← List.getD_eq_getElem _ 0#8 hq', ← hstored.read_eq (by omega)]
    exact memRead_zero_getElem (n := 13) (s := t) hq

end Sys2Proof.Machine
end

section
/-! A trace of edges (rule R91, rule R100, rule R101): the decoder neither reads nor writes `lastEdge`, `pulseCount` and the response,
so a trace of edges runs as the decoder on the classes of their intervals. -/

namespace Sys2Proof.Machine

/-! ## The decoder and the classifier's registers -/

/-- `s` with other classifier registers and response. -/
def State.withCount (lastEdge pulseCount : U32) (r : Resp) (s : State) : State :=
  { s with lastEdge := lastEdge, pulseCount := pulseCount, resp := r }

section Commutes

variable (now count : U32) (r : Resp)

theorem emFrameend_withCount (s : State) : emFrameend (s.withCount now count r) = (emFrameend s).withCount now count r := by
  rw [emFrameend, emFrameend, apply_ite (State.withCount now count r)]
  rfl

theorem emRowend_withCount (b : Bool) (s : State) :
    emRowend b (s.withCount now count r) = (emRowend b s).withCount now count r := by
  rw [emRowend, emRowend, apply_ite (State.withCount now count r), ← emFrameend_withCount]
  rfl

theorem emBitStore_withCount (b : Bool) (s : State) :
    emBitStore b (s.withCount now count r) = (emBitStore b s).map (State.withCount now count r) := by
  by_cases hin : s.byteCtr.toNat ≤ 12 ∧ s.bitCtr.toNat ≤ 7
  · obtain ⟨hbyte, hbit⟩ := hin
    by_cases hpos : 1 ≤ s.bitCtr.toNat
    · rw [emBitStore_of_pos hbyte hbit hpos]
      exact emBitStore_of_pos (s := s.withCount now count r) hbyte hbit hpos b
    · have hzero : s.bitCtr.toNat = 0 := by omega
      rw [emBitStore_of_zero hbyte hzero, emBitStore_of_zero (s := s.withCount now count r) hbyte hzero]
      exact congrArg Except.ok (emRowend_withCount now count r b (storeBit b s))
  · rw [emBitStore_of_outside hin]
    exact emBitStore_of_outside (s := s.withCount now count r) hin b

theorem emBit_withCount (b : Bool) (s : State) :
    emBit b (s.withCount now count r) = (emBit b s).map (State.withCount now count r) := by
  rcases Nat.lt_trichotomy s.ones.toNat 9 with hlt | heq | hgt
  · rw [emBit_of_lt hlt]
    exact emBit_of_lt (s := s.withCount now count r) hlt b
  · rw [emBit_of_eq heq, emBit_of_eq (s := s.withCount now count r) heq]
    exact emBitStore_withCount now count r b s
  · rw [emBit_of_gt hgt]
    exact emBit_of_gt (s := s.withCount now count r) hgt b

theorem emShort_withCount (level : Bool) (s : State) :
    emShort level (s.withCount now count r) = (emShort level s).map (State.withCount now count r) := by
  cases hlong : s.longSeen with
  | false =>
    rw [emShort_of_not_seen hlong]
    exact emShort_of_not_seen (s := s.withCount now count r) hlong level
  | true =>
    cases hhalf : s.emHalf with
    | false =>
      rw [emShort_of_no_half hlong hhalf]
      exact emShort_of_no_half (s := s.withCount now count r) hlong hhalf level
    | true =>
      rw [emShort_of_half hlong hhalf, emShort_of_half (s := s.withCount now count r) hlong hhalf]
      exact emBit_withCount now count r level { s with emHalf := false }

theorem emStep_withCount (cls : PulseClass) (level : Bool) (s : State) :
    emStep cls level (s.withCount now count r) = (emStep cls level s).map (State.withCount now count r) := by
  cases cls with
  | invalid => rfl
  | long => exact emBit_withCount now count r level { s with longSeen := true, emHalf := false }
  | short => exact emShort_withCount now count r level s

theorem fdxCrccheck_withCount (s : State) :
    fdxCrccheck (s.withCount now count r) = (fdxCrccheck s).withCount now count r := by
  rw [fdxCrccheck, fdxCrccheck, apply_ite (State.withCount now count r)]
  rfl

theorem fdxData_withCount (b : Bool) (s : State) :
    fdxData b (s.withCount now count r) = (fdxData b s).map (State.withCount now count r) := by
  by_cases hin : s.byteCtr.toNat ≤ 12 ∧ s.bitCtr.toNat ≤ 7
  · obtain ⟨hbyte, hbit⟩ := hin
    by_cases hmid : s.bitCtr.toNat = 7 → s.byteCtr.toNat ≠ 9 ∧ s.byteCtr.toNat ≠ 12
    · rw [fdxData_of_mid hbyte hbit hmid]
      exact fdxData_of_mid (s := s.withCount now count r) hbyte hbit hmid b
    · obtain ⟨h7, hend⟩ := Classical.not_imp.1 hmid
      by_cases h9 : s.byteCtr.toNat = 9
      · rw [fdxData_of_nine h7 h9, fdxData_of_nine (s := s.withCount now count r) h7 h9]
        exact congrArg Except.ok (fdxCrccheck_withCount now count r (storeNext b s))
      · have h12 : s.byteCtr.toNat = 12 := by omega
        rw [fdxData_of_twelve h7 h12]
        exact fdxData_of_twelve (s := s.withCount now count r) h7 h12 b
  · rw [fdxData_of_outside hin]
    exact fdxData_of_outside (s := s.withCount now count r) hin b

theorem fdxBit_withCount (b : Bool) (s : State) :
    fdxBit b (s.withCount now count r) = (fdxBit b s).map (State.withCount now count r) := by
  by_cases h10 : s.bitCtr.toNat = 10
  · rw [fdxBit_of_seek h10, fdxBit_of_seek (s := s.withCount now count r) h10]
    change Except.ok (fdxSeek (headerSeen b s) _) = _
    cases headerSeen b s <;> rfl
  · rcases Nat.lt_trichotomy s.bitCtr.toNat 8 with hlt | heq | hgt
    · rw [fdxBit_of_data hlt, fdxBit_of_data (s := s.withCount now count r) hlt]
      exact fdxData_withCount now count r b { s with tenZ := windowAfter b s }
    · rw [fdxBit_of_marker heq]
      exact fdxBit_of_marker (s := s.withCount now count r) heq b
    · have hunused : s.bitCtr.toNat = 9 ∨ 10 < s.bitCtr.toNat := by omega
      rw [fdxBit_of_unused hunused]
      exact fdxBit_of_unused (s := s.withCount now count r) hunused b

theorem fdxShort_withCount (s : State) :
    fdxShort (s.withCount now count r) = (fdxShort s).map (State.withCount now count r) := by
  cases hhalf : s.pulse2 with
  | true =>
    rw [fdxShort_of_half hhalf]
    exact fdxShort_of_half (s := s.withCount now count r) hhalf
  | false =>
    by_cases h8 : s.bitCtr.toNat = 8
    · rw [fdxShort_of_marker hhalf h8]
      exact fdxShort_of_marker (s := s.withCount now count r) hhalf h8
    · rw [fdxShort_of_first hhalf h8, fdxShort_of_first (s := s.withCount now count r) hhalf h8]
      exact fdxBit_withCount now count r false { s with pulse2 := true }

theorem fdxStep_withCount (cls : PulseClass) (s : State) :
    fdxStep cls (s.withCount now count r) = (fdxStep cls s).map (State.withCount now count r) := by
  cases cls with
  | invalid => rfl
  | long => exact fdxBit_withCount now count r true { s with pulse2 := false }
  | short => exact fdxShort_withCount now count r s

theorem dispatch_withCount (cls : PulseClass) (level : Bool) (s : State) :
    dispatch cls level (s.withCount now count r) = (dispatch cls level s).map (State.withCount now count r) := by
  cases hp : s.protocol with
  | em4100 =>
    rw [dispatch_em hp, dispatch_em (s := s.withCount now count r) hp]
    exact emStep_withCount now count r cls level s
  | fdxb =>
    rw [dispatch_fdx hp, dispatch_fdx (s := s.withCount now count r) hp]
    exact fdxStep_withCount now count r cls s

theorem decodePulse_withCount (cls : PulseClass) (level : Bool) (s : State) :
    decodePulse cls level (s.withCount now count r) = (decodePulse cls level s).map (State.withCount now count r) := by
  by_cases hflag : s.flag = .integrityPassed
  · rw [decodePulse_of_passed hflag]
    exact decodePulse_of_passed (s := s.withCount now count r) hflag cls level
  · rw [decodePulse_of_not_passed hflag, decodePulse_of_not_passed (s := s.withCount now count r) hflag]
    exact dispatch_withCount now count r cls level s

end Commutes

/-! ## A trace of edges -/

/-- The line the state's circuit observes (rule R100). -/
def observedLine (s : State) : Line := if s.circuit = 1#2 then .a else .b

/-- The class of an interval by the protocol of the state (rule R101). -/
def intervalClass (s : State) (dt : U32) : PulseClass := if s.protocol = .em4100 then classEm params dt else classFdx params dt

/-- A pulse leaves what the acceptance and the class of the next edge depend on (rule R47). -/
theorem decodePulse_keeps {cls : PulseClass} {level : Bool} {s t : State} (ht : decodePulse cls level s = .ok t) :
    t.armed = s.armed ∧ t.circuit = s.circuit ∧ t.protocol = s.protocol := by
  by_cases hflag : s.flag = .integrityPassed
  · rw [decodePulse_of_passed hflag] at ht
    exact Except.ok.inj ht ▸ ⟨rfl, rfl, rfl⟩
  · rw [decodePulse_of_not_passed hflag] at ht
    rw [(dispatch_pulseMoves ht).frame]
    exact ⟨rfl, rfl, rfl⟩

/-- An edge on the observed line is the pulse of its interval, counted (rule R100, rule R101). -/
theorem exec_edge_after {s u : State} {dt : U32} {level : Bool} (harmed : s.armed = true)
    (hu : decodePulse (intervalClass s dt) level s = .ok u) (now count : U32) (r : Resp) :
    exec (.edge (observedLine s) level (now + dt)) (s.withCount now count r) =
      .next (u.withCount (now + dt) (count + 1) .silent) := by
  have haccepts : accepts (observedLine s) (s.withCount now count r) = true :=
    (accepts_eq_true_iff _ _).2 ⟨harmed, rfl⟩
  have hclass : classAt params (now + dt) (s.withCount now count r) = intervalClass s dt := by
    rw [classAt_eq_ite]
    change (if s.protocol = .em4100 then classEm params (now + dt - now) else classFdx params (now + dt - now)) = _
    rw [show now + dt - now = dt by bv_omega]
    rfl
  have hedge : edge params (observedLine s) level (now + dt) (s.withCount now count r) =
      decodePulse (intervalClass s dt) level (s.withCount (now + dt) (count + 1) r) := by
    rw [edge, if_pos haccepts, hclass]
    rfl
  rw [exec_edge, hedge, decodePulse_withCount, hu]
  rfl

/-- Edges on the observed line run as the pulses of their intervals, counted; without an edge the response stays `r`. -/
theorem execAll_edges {ps : List (U32 × Bool)} {s t : State} (harmed : s.armed = true)
    (ht : decodePulses (ps.map fun p => (intervalClass s p.1, p.2)) s = .ok t) (now count : U32) (r : Resp) :
    execAll (expandTrace now (ps.map fun p => .edgePlus (observedLine s) p.1 p.2)) (s.withCount now count r) =
      .next (t.withCount (ps.foldl (fun now p => now + p.1) now) (count + BitVec.ofNat 32 ps.length)
        (if ps = [] then r else .silent)) := by
  induction ps generalizing s now count r with
  | nil =>
    obtain rfl := Except.ok.inj ht
    simp [expandTrace, execAll]
  | cons p ps ih =>
    rw [List.map_cons, decodePulses_cons] at ht
    cases hu : decodePulse (intervalClass s p.1) p.2 s with
    | error f =>
      rw [hu] at ht
      cases ht
    | ok u =>
      rw [hu] at ht
      obtain ⟨harm, hcircuit, hprotocol⟩ := decodePulse_keeps hu
      have hclass : intervalClass s = intervalClass u := by
        funext dt
        rw [intervalClass, intervalClass, hprotocol]
      have hline : observedLine s = observedLine u := by rw [observedLine, observedLine, hcircuit]
      have hfirst := exec_edge_after harmed hu now count r
      have hcount : count + 1 + BitVec.ofNat 32 ps.length = count + BitVec.ofNat 32 (ps.length + 1) := by bv_omega
      rw [hclass] at ht
      have hrest := ih (harm.trans harmed) ht (now + p.1) (count + 1) .silent
      rw [ite_self, hcount, ← hline] at hrest
      exact (execAll_cons_of_next hfirst _).trans hrest

/-- Settles O55: the trace runs as the decoder on the intervals' classes from the state itself, whose own `lastEdge` and
`pulseCount` the count starts from. -/
theorem edgeTraceFeedsTheDecoder : Obligations.EdgeTraceFeedsTheDecoder := by
  intro ps s t hne harmed ht
  have hrun := execAll_edges harmed ht s.lastEdge s.pulseCount s.resp
  rw [if_neg hne] at hrun
  exact hrun

end Sys2Proof.Machine
end
